-- ==== Sys2Proof/Word.lean ====
section
/-! DEFINITION. The words of the machine (spec/00_scope.md section 6): bytes, Words, double Words, and the two
wrapping functions `W` and `W64`. `u(w)` of the spec is `w.toNat` and `s(w)` is `w.toInt`. -/

namespace Sys2Proof

abbrev Byte := BitVec 8

/-- A Word: "a 32-bit two's-complement integer" (00_scope.md section 7). -/
abbrev Word := BitVec 32

abbrev DWord := BitVec 64

/-- `W(z)`: the Word with `u(W(z)) = z mod 2^32`. -/
abbrev W (z : Int) : Word := BitVec.ofInt 32 z

/-- `W64(z)`: the double Word with `u(W64(z)) = z mod 2^64`. -/
abbrev W64 (z : Int) : DWord := BitVec.ofInt 64 z

end Sys2Proof
end

