-- ==== Sys2Proof/Config.lean ====
section
/-! DEFINITION. The configuration record of a launch (spec/00_scope.md R4), the example instance of it that
State.reset uses, and the free values: constants with no body, of which nothing can be proved but their type. -/

namespace Sys2Proof

/-- `ENDIAN` (20_memory.md R44). -/
inductive Endian where
  | little
  | big
deriving DecidableEq, Repr

/-- `DIV0_SIGN_RULE` (93_implementation_defined.md U7): the sign of a finite or infinite dividend over a zero.
`asWritten`: `div.d` takes the dividend's sign, `div.s` the exclusive-or of both (43_float.md R167, R172). -/
inductive Div0SignRule where
  | asWritten
  | ieeeBoth
  | dividendBoth
deriving DecidableEq, Repr

/-- `RAND_DEST` (47_syscall.md R290): the register that receives the result of services 41 and 42. -/
inductive RandDest where
  | v0
  | a0
deriving DecidableEq, Repr

/-- `reg_init` (10_state.md R27): "per-register initial values". -/
structure RegInit where
  x  : Vector Word 32
  f  : Vector Word 32
  hi : Word
  lo : Word
deriving DecidableEq, Repr

/-- `Cfg` (00_scope.md R4). No step changes it. `text_end` and `NINSTR` follow from the text (20_memory.md R42).
Bounds that may equal 2^32 are numbers; the three that a register can hold are Words. -/
structure Cfg where
  endian             : Endian
  textBase           : Nat
  dataMin            : Nat
  dataMax            : Nat
  heapBase           : Word
  initialSp          : Word
  stackTop           : Nat
  mmioBase           : Nat
  initialPc          : Word
  regInit            : RegInit
  showIcount         : Bool
  warningsEnabled    : Bool
  randDest           : RandDest
  icountIncludesExit : Bool
  div0Sign           : Div0SignRule
deriving DecidableEq, Repr

/-- The default `reg_init` (10_state.md R27, D22): every register 0, `$sp = initial_sp`. -/
def RegInit.default (initialSp : Word) : RegInit :=
  { x := (Vector.replicate 32 0).set 29 initialSp, f := Vector.replicate 32 0, hi := 0, lo := 0 }

/-- The example configuration of spec/95_test_vectors.md, with the defaults of 00_scope.md R4 for what that table
does not list. DESIGN CHOICE (notes/assumptions/3.md): every one of these numbers is OPEN in the spec. -/
def Cfg.example : Cfg :=
  { endian := .little
    textBase := 0x00400000
    dataMin := 0x10010000
    dataMax := 0x10040000
    heapBase := 0x10040000
    initialSp := 0x7FFFEFFC
    stackTop := 0x80000000
    mmioBase := 0xFFFF0000
    initialPc := 0x00400000
    regInit := RegInit.default 0x7FFFEFFC
    showIcount := true
    warningsEnabled := false
    randDest := .v0
    icountIncludesExit := true
    div0Sign := .asWritten }

/-! ### Free values -/

/-- FREE: the sign and payload of the n-th generated single NaN (43_float.md R161, U6). -/
opaque Config.freeNaN32 : Nat → Word

/-- FREE: the sign and payload of the n-th generated double NaN (43_float.md R161, U6). -/
opaque Config.freeNaN64 : Nat → DWord

/-- FREE: `seedG` (47_syscall.md R289). The uninterpreted generator states are numbered. -/
opaque Config.seedG : Word → Nat

/-- FREE: `nextG` (47_syscall.md R290). -/
opaque Config.nextG : Nat → Word × Nat

/-- FREE: the raw draw behind `rangeG` (47_syscall.md R292), before it is brought into `[0, b]`. -/
opaque Config.rawRangeG : Nat → Nat → Nat × Nat

end Sys2Proof
end

