-- ==== Sys2Proof/Syntax.lean ====
section
/-! DEFINITION. The instruction records (spec/30_encoding.md R80, R84): one constructor for each of the 102
instructions, its operands in the order of R80. Immediates, shift amounts and offsets are mathematical integers
(00_scope.md R5), because `InvalidImmediate` is a run-time fault; a branch or jump holds the absolute address of its
target (30_encoding.md R82). -/

namespace Sys2Proof

/-- An integer register number (10_state.md R10). -/
abbrev Reg := Fin 32

/-- A floating-point register number (10_state.md R13). -/
abbrev FReg := Fin 32

/-- A condition flag number (10_state.md R19). -/
abbrev CC := Fin 8

inductive Instr where
  -- Integer arithmetic and compare (40_arithmetic_compare.md)
  /-- `add` (R100) -/
  | add (rd rs rt : Reg)
  /-- `addu` (R101) -/
  | addu (rd rs rt : Reg)
  /-- `sub` (R102) -/
  | sub (rd rs rt : Reg)
  /-- `subu` (R103) -/
  | subu (rd rs rt : Reg)
  /-- `addi` (R104) -/
  | addi (rt rs : Reg) (imm : Int)
  /-- `addiu` (R105) -/
  | addiu (rt rs : Reg) (imm : Int)
  /-- `slt` (R106) -/
  | slt (rd rs rt : Reg)
  /-- `sltu` (R107) -/
  | sltu (rd rs rt : Reg)
  /-- `slti` (R108) -/
  | slti (rt rs : Reg) (imm : Int)
  /-- `sltiu` (R109) -/
  | sltiu (rt rs : Reg) (imm : Int)
  /-- `lui` (R110) -/
  | lui (rt : Reg) (imm : Int)
  -- Bitwise and shifts (41_bitwise_shift.md)
  /-- `and` (R120) -/
  | and (rd rs rt : Reg)
  /-- `or` (R121) -/
  | or (rd rs rt : Reg)
  /-- `nor` (R122) -/
  | nor (rd rs rt : Reg)
  /-- `xor` (R123) -/
  | xor (rd rs rt : Reg)
  /-- `andi` (R124) -/
  | andi (rt rs : Reg) (imm : Int)
  /-- `ori` (R125) -/
  | ori (rt rs : Reg) (imm : Int)
  /-- `xori` (R126) -/
  | xori (rt rs : Reg) (imm : Int)
  /-- `sll` (R127) -/
  | sll (rd rt : Reg) (sa : Int)
  /-- `srl` (R128) -/
  | srl (rd rt : Reg) (sa : Int)
  /-- `sra` (R129) -/
  | sra (rd rt : Reg) (sa : Int)
  /-- `sllv` (R130) -/
  | sllv (rd rt rs : Reg)
  /-- `srlv` (R131) -/
  | srlv (rd rt rs : Reg)
  /-- `srav` (R132) -/
  | srav (rd rt rs : Reg)
  -- Multiply, divide, hi/lo (42_muldiv.md)
  /-- `mul` (R140) -/
  | mul (rd rs rt : Reg)
  /-- `mult` (R141) -/
  | mult (rs rt : Reg)
  /-- `multu` (R142) -/
  | multu (rs rt : Reg)
  /-- `div` (R143) -/
  | div (rs rt : Reg)
  /-- `divu` (R144) -/
  | divu (rs rt : Reg)
  /-- `madd` (R145) -/
  | madd (rs rt : Reg)
  /-- `maddu` (R146) -/
  | maddu (rs rt : Reg)
  /-- `msub` (R147) -/
  | msub (rs rt : Reg)
  /-- `msubu` (R148) -/
  | msubu (rs rt : Reg)
  /-- `mfhi` (R149) -/
  | mfhi (rd : Reg)
  /-- `mflo` (R150) -/
  | mflo (rd : Reg)
  -- Floating point (43_float.md)
  /-- `add.s` (R164) -/
  | addS (fd fs ft : FReg)
  /-- `sub.s` (R165) -/
  | subS (fd fs ft : FReg)
  /-- `mul.s` (R166) -/
  | mulS (fd fs ft : FReg)
  /-- `div.s` (R167) -/
  | divS (fd fs ft : FReg)
  /-- `sqrt.s` (R168) -/
  | sqrtS (fd fs : FReg)
  /-- `add.d` (R169) -/
  | addD (fd fs ft : FReg)
  /-- `sub.d` (R170) -/
  | subD (fd fs ft : FReg)
  /-- `mul.d` (R171) -/
  | mulD (fd fs ft : FReg)
  /-- `div.d` (R172) -/
  | divD (fd fs ft : FReg)
  /-- `sqrt.d` (R173) -/
  | sqrtD (fd fs : FReg)
  /-- `round.w.s` (R175) -/
  | roundWS (fd fs : FReg)
  /-- `trunc.w.s` (R176) -/
  | truncWS (fd fs : FReg)
  /-- `ceil.w.s` (R177) -/
  | ceilWS (fd fs : FReg)
  /-- `floor.w.s` (R178) -/
  | floorWS (fd fs : FReg)
  /-- `round.w.d` (R179) -/
  | roundWD (fd fs : FReg)
  /-- `trunc.w.d` (R180) -/
  | truncWD (fd fs : FReg)
  /-- `ceil.w.d` (R181) -/
  | ceilWD (fd fs : FReg)
  /-- `floor.w.d` (R182) -/
  | floorWD (fd fs : FReg)
  /-- `cvt.s.d` (R183) -/
  | cvtSD (fd fs : FReg)
  /-- `cvt.s.w` (R184) -/
  | cvtSW (fd fs : FReg)
  /-- `cvt.d.s` (R185) -/
  | cvtDS (fd fs : FReg)
  /-- `cvt.d.w` (R186) -/
  | cvtDW (fd fs : FReg)
  /-- `cvt.w.s` (R187) -/
  | cvtWS (fd fs : FReg)
  /-- `cvt.w.d` (R188) -/
  | cvtWD (fd fs : FReg)
  /-- `mfc1` (R189) -/
  | mfc1 (rt : Reg) (fs : FReg)
  /-- `mtc1` (R190) -/
  | mtc1 (rt : Reg) (fs : FReg)
  -- Loads and stores (44_loadstore.md)
  /-- `lb` (R201) -/
  | lb (rt : Reg) (offset : Int) (base : Reg)
  /-- `lbu` (R202) -/
  | lbu (rt : Reg) (offset : Int) (base : Reg)
  /-- `lh` (R203) -/
  | lh (rt : Reg) (offset : Int) (base : Reg)
  /-- `lhu` (R204) -/
  | lhu (rt : Reg) (offset : Int) (base : Reg)
  /-- `lw` (R205) -/
  | lw (rt : Reg) (offset : Int) (base : Reg)
  /-- `sb` (R206) -/
  | sb (rt : Reg) (offset : Int) (base : Reg)
  /-- `sh` (R207) -/
  | sh (rt : Reg) (offset : Int) (base : Reg)
  /-- `sw` (R208) -/
  | sw (rt : Reg) (offset : Int) (base : Reg)
  /-- `lwl` (R209) -/
  | lwl (rt : Reg) (offset : Int) (base : Reg)
  /-- `lwr` (R210) -/
  | lwr (rt : Reg) (offset : Int) (base : Reg)
  /-- `swl` (R211) -/
  | swl (rt : Reg) (offset : Int) (base : Reg)
  /-- `swr` (R212) -/
  | swr (rt : Reg) (offset : Int) (base : Reg)
  /-- `lwc1` (R213) -/
  | lwc1 (ft : FReg) (offset : Int) (base : Reg)
  /-- `swc1` (R214) -/
  | swc1 (ft : FReg) (offset : Int) (base : Reg)
  /-- `ldc1` (R215) -/
  | ldc1 (ft : FReg) (offset : Int) (base : Reg)
  /-- `sdc1` (R216) -/
  | sdc1 (ft : FReg) (offset : Int) (base : Reg)
  -- Branches, jumps, floating compares, conditional moves (45_branch_jump.md)
  /-- `beq` (R231) -/
  | beq (rs rt : Reg) (target : Word)
  /-- `bne` (R232) -/
  | bne (rs rt : Reg) (target : Word)
  /-- `blez` (R233) -/
  | blez (rs : Reg) (target : Word)
  /-- `bgtz` (R234) -/
  | bgtz (rs : Reg) (target : Word)
  /-- `bltz` (R235) -/
  | bltz (rs : Reg) (target : Word)
  /-- `bgez` (R236) -/
  | bgez (rs : Reg) (target : Word)
  /-- `j` (R237) -/
  | j (target : Word)
  /-- `jal` (R238) -/
  | jal (target : Word)
  /-- `jr` (R239) -/
  | jr (rs : Reg)
  /-- `jalr` (R240) -/
  | jalr (rd rs : Reg)
  /-- `c.eq.s` (R243) -/
  | cEqS (cc : CC) (fs ft : FReg)
  /-- `c.lt.s` (R244) -/
  | cLtS (cc : CC) (fs ft : FReg)
  /-- `c.le.s` (R245) -/
  | cLeS (cc : CC) (fs ft : FReg)
  /-- `c.eq.d` (R246) -/
  | cEqD (cc : CC) (fs ft : FReg)
  /-- `c.lt.d` (R247) -/
  | cLtD (cc : CC) (fs ft : FReg)
  /-- `c.le.d` (R248) -/
  | cLeD (cc : CC) (fs ft : FReg)
  /-- `bc1t` (R249) -/
  | bc1t (cc : CC) (target : Word)
  /-- `bc1f` (R250) -/
  | bc1f (cc : CC) (target : Word)
  /-- `movt` (R251) -/
  | movt (rd rs : Reg) (cc : CC)
  /-- `movf` (R252) -/
  | movf (rd rs : Reg) (cc : CC)
  /-- `movn` (R253) -/
  | movn (rd rs rt : Reg)
  /-- `movz` (R254) -/
  | movz (rd rs rt : Reg)
  -- Bit counting (46_bitcount.md)
  /-- `clz` (R265) -/
  | clz (rd rs : Reg)
  /-- `clo` (R266) -/
  | clo (rd rs : Reg)
  -- System call (47_syscall.md)
  /-- `syscall` (R270) -/
  | syscall
deriving DecidableEq, Repr

end Sys2Proof
end

