-- ==== Sys2Proof/WellFormed.lean ====
section
/-! DEFINITION. Which instruction records and which launch configurations are well formed (spec/30_encoding.md R81,
10_state.md R16, 00_scope.md R4, 20_memory.md R42). What is ill formed is refused, never given a meaning. -/

namespace Sys2Proof

/-- A double operand names an even register (10_state.md R16). -/
def evenReg (r : FReg) : Bool := r.val % 2 == 0

/-- The immediates and offsets the source gives no run-time check: signed 16-bit (30_encoding.md R81, D17). -/
def signed16 (z : Int) : Bool := decide (-32768 ≤ z) && decide (z < 32768)

/-- R81. Register numbers and condition flags are in range by their types. The immediates of `andi ori xori lui` and
the shift amounts of `sll srl sra` are not restricted here: they are checked at run time. -/
def Instr.wellFormed : Instr → Bool
  | .add _ _ _ => true
  | .addu _ _ _ => true
  | .sub _ _ _ => true
  | .subu _ _ _ => true
  | .addi _ _ imm => signed16 imm
  | .addiu _ _ imm => signed16 imm
  | .slt _ _ _ => true
  | .sltu _ _ _ => true
  | .slti _ _ imm => signed16 imm
  | .sltiu _ _ imm => signed16 imm
  | .lui _ _ => true
  | .and _ _ _ => true
  | .or _ _ _ => true
  | .nor _ _ _ => true
  | .xor _ _ _ => true
  | .andi _ _ _ => true
  | .ori _ _ _ => true
  | .xori _ _ _ => true
  | .sll _ _ _ => true
  | .srl _ _ _ => true
  | .sra _ _ _ => true
  | .sllv _ _ _ => true
  | .srlv _ _ _ => true
  | .srav _ _ _ => true
  | .mul _ _ _ => true
  | .mult _ _ => true
  | .multu _ _ => true
  | .div _ _ => true
  | .divu _ _ => true
  | .madd _ _ => true
  | .maddu _ _ => true
  | .msub _ _ => true
  | .msubu _ _ => true
  | .mfhi _ => true
  | .mflo _ => true
  | .addS _ _ _ => true
  | .subS _ _ _ => true
  | .mulS _ _ _ => true
  | .divS _ _ _ => true
  | .sqrtS _ _ => true
  | .addD fd fs ft => evenReg fd && evenReg fs && evenReg ft
  | .subD fd fs ft => evenReg fd && evenReg fs && evenReg ft
  | .mulD fd fs ft => evenReg fd && evenReg fs && evenReg ft
  | .divD fd fs ft => evenReg fd && evenReg fs && evenReg ft
  | .sqrtD fd fs => evenReg fd && evenReg fs
  | .roundWS _ _ => true
  | .truncWS _ _ => true
  | .ceilWS _ _ => true
  | .floorWS _ _ => true
  | .roundWD _ fs => evenReg fs
  | .truncWD _ fs => evenReg fs
  | .ceilWD _ fs => evenReg fs
  | .floorWD _ fs => evenReg fs
  | .cvtSD _ fs => evenReg fs
  | .cvtSW _ _ => true
  | .cvtDS fd _ => evenReg fd
  | .cvtDW fd _ => evenReg fd
  | .cvtWS _ _ => true
  | .cvtWD _ fs => evenReg fs
  | .mfc1 _ _ => true
  | .mtc1 _ _ => true
  | .lb _ offset _ => signed16 offset
  | .lbu _ offset _ => signed16 offset
  | .lh _ offset _ => signed16 offset
  | .lhu _ offset _ => signed16 offset
  | .lw _ offset _ => signed16 offset
  | .sb _ offset _ => signed16 offset
  | .sh _ offset _ => signed16 offset
  | .sw _ offset _ => signed16 offset
  | .lwl _ offset _ => signed16 offset
  | .lwr _ offset _ => signed16 offset
  | .swl _ offset _ => signed16 offset
  | .swr _ offset _ => signed16 offset
  | .lwc1 _ offset _ => signed16 offset
  | .swc1 _ offset _ => signed16 offset
  | .ldc1 ft offset _ => signed16 offset && evenReg ft
  | .sdc1 ft offset _ => signed16 offset && evenReg ft
  | .beq _ _ _ => true
  | .bne _ _ _ => true
  | .blez _ _ => true
  | .bgtz _ _ => true
  | .bltz _ _ => true
  | .bgez _ _ => true
  | .j _ => true
  | .jal _ => true
  | .jr _ => true
  | .jalr _ _ => true
  | .cEqS _ _ _ => true
  | .cLtS _ _ _ => true
  | .cLeS _ _ _ => true
  | .cEqD _ fs ft => evenReg fs && evenReg ft
  | .cLtD _ fs ft => evenReg fs && evenReg ft
  | .cLeD _ fs ft => evenReg fs && evenReg ft
  | .bc1t _ _ => true
  | .bc1f _ _ => true
  | .movt _ _ _ => true
  | .movf _ _ _ => true
  | .movn _ _ _ => true
  | .movz _ _ _ => true
  | .clz _ _ => true
  | .clo _ _ => true
  | .syscall => true

/-- `[a, b)` and `[c, d)` have no address in common. -/
def disjointRanges (a b c d : Nat) : Bool := decide (b ≤ c) || decide (d ≤ a) || decide (b ≤ a) || decide (d ≤ c)

def multipleOf4 (n : Nat) : Bool := n % 4 == 0

/-- The constraints on a launch with `n` instruction slots (00_scope.md R4, 20_memory.md R42): every bound a multiple
of 4; text, data and dynamic ranges pairwise disjoint and below `mmio_base`;
`data_max <= heap_base <= initial_sp <= stack_top`; the entry point inside the text. The condition `data_min <= data_max`
is the model's own (DESIGN CHOICE, notes/assumptions/33.md): neither rule lists it. That `reg_init($sp)` is
`initial_sp` is no condition (notes/assumptions/32.md). -/
def Cfg.wellFormed (c : Cfg) (n : Nat) : Bool :=
  multipleOf4 c.textBase && multipleOf4 c.dataMin && multipleOf4 c.dataMax && multipleOf4 c.heapBase.toNat
    && multipleOf4 c.initialSp.toNat && multipleOf4 c.stackTop && multipleOf4 c.mmioBase
    && multipleOf4 c.initialPc.toNat
    && decide (c.dataMin ≤ c.dataMax) && decide (c.dataMax ≤ c.heapBase.toNat)
    && decide (c.heapBase.toNat ≤ c.initialSp.toNat) && decide (c.initialSp.toNat ≤ c.stackTop)
    && decide (c.stackTop ≤ c.mmioBase) && decide (c.mmioBase ≤ 2 ^ 32)
    && decide (c.textBase + 4 * n ≤ c.mmioBase)
    && disjointRanges c.textBase (c.textBase + 4 * n) c.dataMin c.dataMax
    && disjointRanges c.textBase (c.textBase + 4 * n) c.heapBase.toNat c.stackTop
    && decide (c.textBase ≤ c.initialPc.toNat) && decide (c.initialPc.toNat < c.textBase + 4 * n)

end Sys2Proof
end

