-- ==== Sys2Proof/Decode.lean ====
section
/-! DEFINITION. The binary level (spec/30_encoding.md R83, R86 to R90, opcode_table.json): fields of a 32-bit word,
the decoder, the encoder, and the opcode table's rows. The decoder is total on 32-bit words; what it rejects, it
rejects by name. A branch or jump word means an absolute target only at an address, so the address of the word is an
argument (R87). -/

namespace Sys2Proof

/-! ### Fields of a word (R83) -/

/-- A 5-bit field as a register number. -/
def regOf (b : BitVec 5) : Fin 32 := ⟨b.toNat, b.isLt⟩

/-- A register number as a 5-bit field. -/
def bitsOf (r : Fin 32) : BitVec 5 := BitVec.ofNat 5 r.val

def ccOf (b : BitVec 3) : CC := ⟨b.toNat, b.isLt⟩

def ccBits (k : CC) : BitVec 3 := BitVec.ofNat 3 k.val

def opField (w : Word) : BitVec 6 := w.extractLsb' 26 6

/-- Bits 25:21: `rs`, `base`, `fmt` or the COP1 sub-opcode. -/
def rsField (w : Word) : BitVec 5 := w.extractLsb' 21 5

/-- Bits 20:16: `rt`, `ft`, or the REGIMM sub-opcode. -/
def rtField (w : Word) : BitVec 5 := w.extractLsb' 16 5

/-- Bits 15:11: `rd` or `fs`. -/
def rdField (w : Word) : BitVec 5 := w.extractLsb' 11 5

/-- Bits 10:6: `sa` or `fd`. -/
def saField (w : Word) : BitVec 5 := w.extractLsb' 6 5

def functField (w : Word) : BitVec 6 := w.extractLsb' 0 6

def immField (w : Word) : BitVec 16 := w.extractLsb' 0 16

def indexField (w : Word) : BitVec 26 := w.extractLsb' 0 26

/-- Bits 10:8 of the format FC. -/
def fcField (w : Word) : BitVec 3 := w.extractLsb' 8 3

/-- Bits 20:18 of the formats FB and MC. -/
def fbField (w : Word) : BitVec 3 := w.extractLsb' 18 3

/-- Bits 17:16 of the formats FB and MC: a zero and `tf`. -/
def tfField (w : Word) : BitVec 2 := w.extractLsb' 16 2

/-! ### Immediates and targets (R86, R87) -/

/-- The target of a branch word at address `a` (R87). -/
def branchTarget (a : Word) (imm : BitVec 16) : Word := W ((a.toNat : Int) + 4 + 4 * imm.toInt)

/-- The target of a jump word at address `a` (R87): the region of `a + 4`, the index, two zero bits. -/
def jumpTarget (a : Word) (index : BitVec 26) : Word := (a + 4).extractLsb' 28 4 ++ index ++ 0#2

/-! ### The decoder (R88, R89) -/

/-- Why a word is reserved (R90). -/
inductive Reserved where
  /-- It matches no row of the opcode table. -/
  | noRow
  /-- It matches a row and names an odd register for a double. -/
  | illFormed
deriving DecidableEq, Repr

def onlyIf (c : Bool) (i : Instr) : Option Instr := if c then some i else none

/-- `movf` and `movt`, by bit 16 (format MC). -/
def decodeMovcc (w : Word) : Option Instr :=
  if tfField w = 0#2 then onlyIf (saField w == 0) (.movf (regOf (rdField w)) (regOf (rsField w)) (ccOf (fbField w)))
  else if tfField w = 1#2 then onlyIf (saField w == 0) (.movt (regOf (rdField w)) (regOf (rsField w)) (ccOf (fbField w)))
  else none

/-- SPECIAL, by `funct` (R88). -/
def decodeSpecial (w : Word) : Option Instr :=
  if functField w = 0x00#6 then onlyIf (rsField w == 0) (.sll (regOf (rdField w)) (regOf (rtField w)) (saField w).toNat)
  else if functField w = 0x01#6 then decodeMovcc w
  else if functField w = 0x02#6 then onlyIf (rsField w == 0) (.srl (regOf (rdField w)) (regOf (rtField w)) (saField w).toNat)
  else if functField w = 0x03#6 then onlyIf (rsField w == 0) (.sra (regOf (rdField w)) (regOf (rtField w)) (saField w).toNat)
  else if functField w = 0x04#6 then onlyIf (saField w == 0) (.sllv (regOf (rdField w)) (regOf (rtField w)) (regOf (rsField w)))
  else if functField w = 0x06#6 then onlyIf (saField w == 0) (.srlv (regOf (rdField w)) (regOf (rtField w)) (regOf (rsField w)))
  else if functField w = 0x07#6 then onlyIf (saField w == 0) (.srav (regOf (rdField w)) (regOf (rtField w)) (regOf (rsField w)))
  else if functField w = 0x08#6 then onlyIf (rtField w == 0 && rdField w == 0 && saField w == 0) (.jr (regOf (rsField w)))
  else if functField w = 0x09#6 then onlyIf (rtField w == 0 && saField w == 0) (.jalr (regOf (rdField w)) (regOf (rsField w)))
  else if functField w = 0x0A#6 then onlyIf (saField w == 0) (.movz (regOf (rdField w)) (regOf (rsField w)) (regOf (rtField w)))
  else if functField w = 0x0B#6 then onlyIf (saField w == 0) (.movn (regOf (rdField w)) (regOf (rsField w)) (regOf (rtField w)))
  else if functField w = 0x0C#6 then some .syscall
  else if functField w = 0x10#6 then onlyIf (rsField w == 0 && rtField w == 0 && saField w == 0) (.mfhi (regOf (rdField w)))
  else if functField w = 0x12#6 then onlyIf (rsField w == 0 && rtField w == 0 && saField w == 0) (.mflo (regOf (rdField w)))
  else if functField w = 0x18#6 then onlyIf (rdField w == 0 && saField w == 0) (.mult (regOf (rsField w)) (regOf (rtField w)))
  else if functField w = 0x19#6 then onlyIf (rdField w == 0 && saField w == 0) (.multu (regOf (rsField w)) (regOf (rtField w)))
  else if functField w = 0x1A#6 then onlyIf (rdField w == 0 && saField w == 0) (.div (regOf (rsField w)) (regOf (rtField w)))
  else if functField w = 0x1B#6 then onlyIf (rdField w == 0 && saField w == 0) (.divu (regOf (rsField w)) (regOf (rtField w)))
  else if functField w = 0x20#6 then onlyIf (saField w == 0) (.add (regOf (rdField w)) (regOf (rsField w)) (regOf (rtField w)))
  else if functField w = 0x21#6 then onlyIf (saField w == 0) (.addu (regOf (rdField w)) (regOf (rsField w)) (regOf (rtField w)))
  else if functField w = 0x22#6 then onlyIf (saField w == 0) (.sub (regOf (rdField w)) (regOf (rsField w)) (regOf (rtField w)))
  else if functField w = 0x23#6 then onlyIf (saField w == 0) (.subu (regOf (rdField w)) (regOf (rsField w)) (regOf (rtField w)))
  else if functField w = 0x24#6 then onlyIf (saField w == 0) (.and (regOf (rdField w)) (regOf (rsField w)) (regOf (rtField w)))
  else if functField w = 0x25#6 then onlyIf (saField w == 0) (.or (regOf (rdField w)) (regOf (rsField w)) (regOf (rtField w)))
  else if functField w = 0x26#6 then onlyIf (saField w == 0) (.xor (regOf (rdField w)) (regOf (rsField w)) (regOf (rtField w)))
  else if functField w = 0x27#6 then onlyIf (saField w == 0) (.nor (regOf (rdField w)) (regOf (rsField w)) (regOf (rtField w)))
  else if functField w = 0x2A#6 then onlyIf (saField w == 0) (.slt (regOf (rdField w)) (regOf (rsField w)) (regOf (rtField w)))
  else if functField w = 0x2B#6 then onlyIf (saField w == 0) (.sltu (regOf (rdField w)) (regOf (rsField w)) (regOf (rtField w)))
  else none

/-- SPECIAL2, by `funct` (R88). The `rt` position of `clz` and `clo` is ignored. -/
def decodeSpecial2 (w : Word) : Option Instr :=
  if functField w = 0x00#6 then onlyIf (rdField w == 0 && saField w == 0) (.madd (regOf (rsField w)) (regOf (rtField w)))
  else if functField w = 0x01#6 then onlyIf (rdField w == 0 && saField w == 0) (.maddu (regOf (rsField w)) (regOf (rtField w)))
  else if functField w = 0x02#6 then onlyIf (saField w == 0) (.mul (regOf (rdField w)) (regOf (rsField w)) (regOf (rtField w)))
  else if functField w = 0x04#6 then onlyIf (rdField w == 0 && saField w == 0) (.msub (regOf (rsField w)) (regOf (rtField w)))
  else if functField w = 0x05#6 then onlyIf (rdField w == 0 && saField w == 0) (.msubu (regOf (rsField w)) (regOf (rtField w)))
  else if functField w = 0x20#6 then onlyIf (saField w == 0) (.clz (regOf (rdField w)) (regOf (rsField w)))
  else if functField w = 0x21#6 then onlyIf (saField w == 0) (.clo (regOf (rdField w)) (regOf (rsField w)))
  else none

/-- REGIMM, by bits 20:16 (R88). -/
def decodeRegimm (a w : Word) : Option Instr :=
  if rtField w = 0#5 then some (.bltz (regOf (rsField w)) (branchTarget a (immField w)))
  else if rtField w = 1#5 then some (.bgez (regOf (rsField w)) (branchTarget a (immField w)))
  else none

/-- COP1, format S (R88). -/
def decodeFmtS (w : Word) : Option Instr :=
  if functField w = 0x00#6 then some (.addS (regOf (saField w)) (regOf (rdField w)) (regOf (rtField w)))
  else if functField w = 0x01#6 then some (.subS (regOf (saField w)) (regOf (rdField w)) (regOf (rtField w)))
  else if functField w = 0x02#6 then some (.mulS (regOf (saField w)) (regOf (rdField w)) (regOf (rtField w)))
  else if functField w = 0x03#6 then some (.divS (regOf (saField w)) (regOf (rdField w)) (regOf (rtField w)))
  else if functField w = 0x04#6 then onlyIf (rtField w == 0) (.sqrtS (regOf (saField w)) (regOf (rdField w)))
  else if functField w = 0x0C#6 then onlyIf (rtField w == 0) (.roundWS (regOf (saField w)) (regOf (rdField w)))
  else if functField w = 0x0D#6 then onlyIf (rtField w == 0) (.truncWS (regOf (saField w)) (regOf (rdField w)))
  else if functField w = 0x0E#6 then onlyIf (rtField w == 0) (.ceilWS (regOf (saField w)) (regOf (rdField w)))
  else if functField w = 0x0F#6 then onlyIf (rtField w == 0) (.floorWS (regOf (saField w)) (regOf (rdField w)))
  else if functField w = 0x21#6 then onlyIf (rtField w == 0) (.cvtDS (regOf (saField w)) (regOf (rdField w)))
  else if functField w = 0x24#6 then onlyIf (rtField w == 0) (.cvtWS (regOf (saField w)) (regOf (rdField w)))
  else if functField w = 0x32#6 then onlyIf (saField w &&& 3 == 0) (.cEqS (ccOf (fcField w)) (regOf (rdField w)) (regOf (rtField w)))
  else if functField w = 0x3C#6 then onlyIf (saField w &&& 3 == 0) (.cLtS (ccOf (fcField w)) (regOf (rdField w)) (regOf (rtField w)))
  else if functField w = 0x3E#6 then onlyIf (saField w &&& 3 == 0) (.cLeS (ccOf (fcField w)) (regOf (rdField w)) (regOf (rtField w)))
  else none

/-- COP1, format D (R88). -/
def decodeFmtD (w : Word) : Option Instr :=
  if functField w = 0x00#6 then some (.addD (regOf (saField w)) (regOf (rdField w)) (regOf (rtField w)))
  else if functField w = 0x01#6 then some (.subD (regOf (saField w)) (regOf (rdField w)) (regOf (rtField w)))
  else if functField w = 0x02#6 then some (.mulD (regOf (saField w)) (regOf (rdField w)) (regOf (rtField w)))
  else if functField w = 0x03#6 then some (.divD (regOf (saField w)) (regOf (rdField w)) (regOf (rtField w)))
  else if functField w = 0x04#6 then onlyIf (rtField w == 0) (.sqrtD (regOf (saField w)) (regOf (rdField w)))
  else if functField w = 0x0C#6 then onlyIf (rtField w == 0) (.roundWD (regOf (saField w)) (regOf (rdField w)))
  else if functField w = 0x0D#6 then onlyIf (rtField w == 0) (.truncWD (regOf (saField w)) (regOf (rdField w)))
  else if functField w = 0x0E#6 then onlyIf (rtField w == 0) (.ceilWD (regOf (saField w)) (regOf (rdField w)))
  else if functField w = 0x0F#6 then onlyIf (rtField w == 0) (.floorWD (regOf (saField w)) (regOf (rdField w)))
  else if functField w = 0x20#6 then onlyIf (rtField w == 0) (.cvtSD (regOf (saField w)) (regOf (rdField w)))
  else if functField w = 0x24#6 then onlyIf (rtField w == 0) (.cvtWD (regOf (saField w)) (regOf (rdField w)))
  else if functField w = 0x32#6 then onlyIf (saField w &&& 3 == 0) (.cEqD (ccOf (fcField w)) (regOf (rdField w)) (regOf (rtField w)))
  else if functField w = 0x3C#6 then onlyIf (saField w &&& 3 == 0) (.cLtD (ccOf (fcField w)) (regOf (rdField w)) (regOf (rtField w)))
  else if functField w = 0x3E#6 then onlyIf (saField w &&& 3 == 0) (.cLeD (ccOf (fcField w)) (regOf (rdField w)) (regOf (rtField w)))
  else none

/-- COP1, format W (R88). -/
def decodeFmtW (w : Word) : Option Instr :=
  if functField w = 0x20#6 then onlyIf (rtField w == 0) (.cvtSW (regOf (saField w)) (regOf (rdField w)))
  else if functField w = 0x21#6 then onlyIf (rtField w == 0) (.cvtDW (regOf (saField w)) (regOf (rdField w)))
  else none

/-- `bc1f` and `bc1t`, by bit 16 (format FB). -/
def decodeBc1 (a w : Word) : Option Instr :=
  if tfField w = 0#2 then some (.bc1f (ccOf (fbField w)) (branchTarget a (immField w)))
  else if tfField w = 1#2 then some (.bc1t (ccOf (fbField w)) (branchTarget a (immField w)))
  else none

/-- COP1, by bits 25:21 (R88). -/
def decodeCop1 (a w : Word) : Option Instr :=
  if rsField w = 0x00#5 then onlyIf (saField w == 0 && functField w == 0) (.mfc1 (regOf (rtField w)) (regOf (rdField w)))
  else if rsField w = 0x04#5 then onlyIf (saField w == 0 && functField w == 0) (.mtc1 (regOf (rtField w)) (regOf (rdField w)))
  else if rsField w = 0x08#5 then decodeBc1 a w
  else if rsField w = 0x10#5 then decodeFmtS w
  else if rsField w = 0x11#5 then decodeFmtD w
  else if rsField w = 0x14#5 then decodeFmtW w
  else none

/-- The record a word at address `a` stands for, by the primary opcode (R88), before R81 is applied. -/
def decodeRow (a w : Word) : Option Instr :=
  if opField w = 0x00#6 then decodeSpecial w
  else if opField w = 0x01#6 then decodeRegimm a w
  else if opField w = 0x02#6 then some (.j (jumpTarget a (indexField w)))
  else if opField w = 0x03#6 then some (.jal (jumpTarget a (indexField w)))
  else if opField w = 0x04#6 then some (.beq (regOf (rsField w)) (regOf (rtField w)) (branchTarget a (immField w)))
  else if opField w = 0x05#6 then some (.bne (regOf (rsField w)) (regOf (rtField w)) (branchTarget a (immField w)))
  else if opField w = 0x06#6 then onlyIf (rtField w == 0) (.blez (regOf (rsField w)) (branchTarget a (immField w)))
  else if opField w = 0x07#6 then onlyIf (rtField w == 0) (.bgtz (regOf (rsField w)) (branchTarget a (immField w)))
  else if opField w = 0x08#6 then some (.addi (regOf (rtField w)) (regOf (rsField w)) (immField w).toInt)
  else if opField w = 0x09#6 then some (.addiu (regOf (rtField w)) (regOf (rsField w)) (immField w).toInt)
  else if opField w = 0x0A#6 then some (.slti (regOf (rtField w)) (regOf (rsField w)) (immField w).toInt)
  else if opField w = 0x0B#6 then some (.sltiu (regOf (rtField w)) (regOf (rsField w)) (immField w).toInt)
  else if opField w = 0x0C#6 then some (.andi (regOf (rtField w)) (regOf (rsField w)) (immField w).toNat)
  else if opField w = 0x0D#6 then some (.ori (regOf (rtField w)) (regOf (rsField w)) (immField w).toNat)
  else if opField w = 0x0E#6 then some (.xori (regOf (rtField w)) (regOf (rsField w)) (immField w).toNat)
  else if opField w = 0x0F#6 then onlyIf (rsField w == 0) (.lui (regOf (rtField w)) (immField w).toNat)
  else if opField w = 0x11#6 then decodeCop1 a w
  else if opField w = 0x1C#6 then decodeSpecial2 w
  else if opField w = 0x20#6 then some (.lb (regOf (rtField w)) (immField w).toInt (regOf (rsField w)))
  else if opField w = 0x21#6 then some (.lh (regOf (rtField w)) (immField w).toInt (regOf (rsField w)))
  else if opField w = 0x22#6 then some (.lwl (regOf (rtField w)) (immField w).toInt (regOf (rsField w)))
  else if opField w = 0x23#6 then some (.lw (regOf (rtField w)) (immField w).toInt (regOf (rsField w)))
  else if opField w = 0x24#6 then some (.lbu (regOf (rtField w)) (immField w).toInt (regOf (rsField w)))
  else if opField w = 0x25#6 then some (.lhu (regOf (rtField w)) (immField w).toInt (regOf (rsField w)))
  else if opField w = 0x26#6 then some (.lwr (regOf (rtField w)) (immField w).toInt (regOf (rsField w)))
  else if opField w = 0x28#6 then some (.sb (regOf (rtField w)) (immField w).toInt (regOf (rsField w)))
  else if opField w = 0x29#6 then some (.sh (regOf (rtField w)) (immField w).toInt (regOf (rsField w)))
  else if opField w = 0x2A#6 then some (.swl (regOf (rtField w)) (immField w).toInt (regOf (rsField w)))
  else if opField w = 0x2B#6 then some (.sw (regOf (rtField w)) (immField w).toInt (regOf (rsField w)))
  else if opField w = 0x2E#6 then some (.swr (regOf (rtField w)) (immField w).toInt (regOf (rsField w)))
  else if opField w = 0x31#6 then some (.lwc1 (regOf (rtField w)) (immField w).toInt (regOf (rsField w)))
  else if opField w = 0x35#6 then some (.ldc1 (regOf (rtField w)) (immField w).toInt (regOf (rsField w)))
  else if opField w = 0x39#6 then some (.swc1 (regOf (rtField w)) (immField w).toInt (regOf (rsField w)))
  else if opField w = 0x3D#6 then some (.sdc1 (regOf (rtField w)) (immField w).toInt (regOf (rsField w)))
  else none

/-- R89: the row, then the operands, then the well-formedness of R81. Total on 32-bit words. -/
def decode (a w : Word) : Except Reserved Instr :=
  match decodeRow a w with
  | none => .error .noRow
  | some i => if i.wellFormed then .ok i else .error .illFormed

/-! ### The encoder (R83, R86, R87) -/

def packR (op : BitVec 6) (rs rt rd sa : BitVec 5) (funct : BitVec 6) : Word := op ++ rs ++ rt ++ rd ++ sa ++ funct

def packI (op : BitVec 6) (rs rt : BitVec 5) (imm : BitVec 16) : Word := op ++ rs ++ rt ++ imm

def packJ (op : BitVec 6) (index : BitVec 26) : Word := op ++ index

/-- The `ft`-position field of the formats FB and MC: `cc`, a zero, `tf`. -/
def ccTf (k : CC) (tf : BitVec 1) : BitVec 5 := ccBits k ++ 0#1 ++ tf

/-- The `sa`-position field of the format FC: `cc` and two zeros. -/
def ccZero (k : CC) : BitVec 5 := ccBits k ++ 0#2

/-- The distance, in bytes, from the word after `a` to a branch target (R87), modulo 2^32. -/
def branchDistance (a target : Word) : Int := (target - (a + 4)).toInt

def branchImm (a target : Word) : BitVec 16 := BitVec.ofInt 16 (branchDistance a target / 4)

def jumpIndex (target : Word) : BitVec 26 := target.extractLsb' 2 26

def branchReachable (a target : Word) : Bool :=
  branchDistance a target % 4 == 0 && decide (-131072 ≤ branchDistance a target)
    && decide (branchDistance a target ≤ 131068)

def jumpReachable (a target : Word) : Bool :=
  target.extractLsb' 0 2 == 0#2 && target.extractLsb' 28 4 == (a + 4).extractLsb' 28 4

/-- The range of `imm` of `andi ori xori lui` (R86). -/
def unsigned16 (z : Int) : Bool := decide (0 ≤ z) && decide (z < 65536)

/-- The range of `sa` (R86). -/
def shift5 (z : Int) : Bool := decide (0 ≤ z) && decide (z < 32)

/-- Which records at address `a` have a word: those with operands in the ranges of R86 and R87. -/
def Instr.encodable (a : Word) : Instr → Bool
  | .add _ _ _ => true
  | .addu _ _ _ => true
  | .sub _ _ _ => true
  | .subu _ _ _ => true
  | .addi _ _ imm => signed16 imm
  | .addiu _ _ imm => signed16 imm
  | .slt _ _ _ => true
  | .sltu _ _ _ => true
  | .slti _ _ imm => signed16 imm
  | .sltiu _ _ imm => signed16 imm
  | .lui _ imm => unsigned16 imm
  | .and _ _ _ => true
  | .or _ _ _ => true
  | .nor _ _ _ => true
  | .xor _ _ _ => true
  | .andi _ _ imm => unsigned16 imm
  | .ori _ _ imm => unsigned16 imm
  | .xori _ _ imm => unsigned16 imm
  | .sll _ _ sa => shift5 sa
  | .srl _ _ sa => shift5 sa
  | .sra _ _ sa => shift5 sa
  | .sllv _ _ _ => true
  | .srlv _ _ _ => true
  | .srav _ _ _ => true
  | .mul _ _ _ => true
  | .mult _ _ => true
  | .multu _ _ => true
  | .div _ _ => true
  | .divu _ _ => true
  | .madd _ _ => true
  | .maddu _ _ => true
  | .msub _ _ => true
  | .msubu _ _ => true
  | .mfhi _ => true
  | .mflo _ => true
  | .addS _ _ _ => true
  | .subS _ _ _ => true
  | .mulS _ _ _ => true
  | .divS _ _ _ => true
  | .sqrtS _ _ => true
  | .addD _ _ _ => true
  | .subD _ _ _ => true
  | .mulD _ _ _ => true
  | .divD _ _ _ => true
  | .sqrtD _ _ => true
  | .roundWS _ _ => true
  | .truncWS _ _ => true
  | .ceilWS _ _ => true
  | .floorWS _ _ => true
  | .roundWD _ _ => true
  | .truncWD _ _ => true
  | .ceilWD _ _ => true
  | .floorWD _ _ => true
  | .cvtSD _ _ => true
  | .cvtSW _ _ => true
  | .cvtDS _ _ => true
  | .cvtDW _ _ => true
  | .cvtWS _ _ => true
  | .cvtWD _ _ => true
  | .mfc1 _ _ => true
  | .mtc1 _ _ => true
  | .lb _ offset _ => signed16 offset
  | .lbu _ offset _ => signed16 offset
  | .lh _ offset _ => signed16 offset
  | .lhu _ offset _ => signed16 offset
  | .lw _ offset _ => signed16 offset
  | .sb _ offset _ => signed16 offset
  | .sh _ offset _ => signed16 offset
  | .sw _ offset _ => signed16 offset
  | .lwl _ offset _ => signed16 offset
  | .lwr _ offset _ => signed16 offset
  | .swl _ offset _ => signed16 offset
  | .swr _ offset _ => signed16 offset
  | .lwc1 _ offset _ => signed16 offset
  | .swc1 _ offset _ => signed16 offset
  | .ldc1 _ offset _ => signed16 offset
  | .sdc1 _ offset _ => signed16 offset
  | .beq _ _ target => branchReachable a target
  | .bne _ _ target => branchReachable a target
  | .blez _ target => branchReachable a target
  | .bgtz _ target => branchReachable a target
  | .bltz _ target => branchReachable a target
  | .bgez _ target => branchReachable a target
  | .j target => jumpReachable a target
  | .jal target => jumpReachable a target
  | .jr _ => true
  | .jalr _ _ => true
  | .cEqS _ _ _ => true
  | .cLtS _ _ _ => true
  | .cLeS _ _ _ => true
  | .cEqD _ _ _ => true
  | .cLtD _ _ _ => true
  | .cLeD _ _ _ => true
  | .bc1t _ target => branchReachable a target
  | .bc1f _ target => branchReachable a target
  | .movt _ _ _ => true
  | .movf _ _ _ => true
  | .movn _ _ _ => true
  | .movz _ _ _ => true
  | .clz _ _ => true
  | .clo _ _ => true
  | .syscall => true

/-- The word of a record, written from the encoding strings of R88. Fields ignored on decode are written as 0, the `x`
field of `clz` and `clo` as a copy of `rd` (R83). -/
def Instr.toWord (a : Word) : Instr → Word
  | .add rd rs rt => packR 0x00 (bitsOf rs) (bitsOf rt) (bitsOf rd) 0x00 0x20
  | .addu rd rs rt => packR 0x00 (bitsOf rs) (bitsOf rt) (bitsOf rd) 0x00 0x21
  | .sub rd rs rt => packR 0x00 (bitsOf rs) (bitsOf rt) (bitsOf rd) 0x00 0x22
  | .subu rd rs rt => packR 0x00 (bitsOf rs) (bitsOf rt) (bitsOf rd) 0x00 0x23
  | .addi rt rs imm => packI 0x08 (bitsOf rs) (bitsOf rt) (BitVec.ofInt 16 imm)
  | .addiu rt rs imm => packI 0x09 (bitsOf rs) (bitsOf rt) (BitVec.ofInt 16 imm)
  | .slt rd rs rt => packR 0x00 (bitsOf rs) (bitsOf rt) (bitsOf rd) 0x00 0x2A
  | .sltu rd rs rt => packR 0x00 (bitsOf rs) (bitsOf rt) (bitsOf rd) 0x00 0x2B
  | .slti rt rs imm => packI 0x0A (bitsOf rs) (bitsOf rt) (BitVec.ofInt 16 imm)
  | .sltiu rt rs imm => packI 0x0B (bitsOf rs) (bitsOf rt) (BitVec.ofInt 16 imm)
  | .lui rt imm => packI 0x0F 0x00 (bitsOf rt) (BitVec.ofInt 16 imm)
  | .and rd rs rt => packR 0x00 (bitsOf rs) (bitsOf rt) (bitsOf rd) 0x00 0x24
  | .or rd rs rt => packR 0x00 (bitsOf rs) (bitsOf rt) (bitsOf rd) 0x00 0x25
  | .nor rd rs rt => packR 0x00 (bitsOf rs) (bitsOf rt) (bitsOf rd) 0x00 0x27
  | .xor rd rs rt => packR 0x00 (bitsOf rs) (bitsOf rt) (bitsOf rd) 0x00 0x26
  | .andi rt rs imm => packI 0x0C (bitsOf rs) (bitsOf rt) (BitVec.ofInt 16 imm)
  | .ori rt rs imm => packI 0x0D (bitsOf rs) (bitsOf rt) (BitVec.ofInt 16 imm)
  | .xori rt rs imm => packI 0x0E (bitsOf rs) (bitsOf rt) (BitVec.ofInt 16 imm)
  | .sll rd rt sa => packR 0x00 0x00 (bitsOf rt) (bitsOf rd) (BitVec.ofInt 5 sa) 0x00
  | .srl rd rt sa => packR 0x00 0x00 (bitsOf rt) (bitsOf rd) (BitVec.ofInt 5 sa) 0x02
  | .sra rd rt sa => packR 0x00 0x00 (bitsOf rt) (bitsOf rd) (BitVec.ofInt 5 sa) 0x03
  | .sllv rd rt rs => packR 0x00 (bitsOf rs) (bitsOf rt) (bitsOf rd) 0x00 0x04
  | .srlv rd rt rs => packR 0x00 (bitsOf rs) (bitsOf rt) (bitsOf rd) 0x00 0x06
  | .srav rd rt rs => packR 0x00 (bitsOf rs) (bitsOf rt) (bitsOf rd) 0x00 0x07
  | .mul rd rs rt => packR 0x1C (bitsOf rs) (bitsOf rt) (bitsOf rd) 0x00 0x02
  | .mult rs rt => packR 0x00 (bitsOf rs) (bitsOf rt) 0x00 0x00 0x18
  | .multu rs rt => packR 0x00 (bitsOf rs) (bitsOf rt) 0x00 0x00 0x19
  | .div rs rt => packR 0x00 (bitsOf rs) (bitsOf rt) 0x00 0x00 0x1A
  | .divu rs rt => packR 0x00 (bitsOf rs) (bitsOf rt) 0x00 0x00 0x1B
  | .madd rs rt => packR 0x1C (bitsOf rs) (bitsOf rt) 0x00 0x00 0x00
  | .maddu rs rt => packR 0x1C (bitsOf rs) (bitsOf rt) 0x00 0x00 0x01
  | .msub rs rt => packR 0x1C (bitsOf rs) (bitsOf rt) 0x00 0x00 0x04
  | .msubu rs rt => packR 0x1C (bitsOf rs) (bitsOf rt) 0x00 0x00 0x05
  | .mfhi rd => packR 0x00 0x00 0x00 (bitsOf rd) 0x00 0x10
  | .mflo rd => packR 0x00 0x00 0x00 (bitsOf rd) 0x00 0x12
  | .addS fd fs ft => packR 0x11 0x10 (bitsOf ft) (bitsOf fs) (bitsOf fd) 0x00
  | .subS fd fs ft => packR 0x11 0x10 (bitsOf ft) (bitsOf fs) (bitsOf fd) 0x01
  | .mulS fd fs ft => packR 0x11 0x10 (bitsOf ft) (bitsOf fs) (bitsOf fd) 0x02
  | .divS fd fs ft => packR 0x11 0x10 (bitsOf ft) (bitsOf fs) (bitsOf fd) 0x03
  | .sqrtS fd fs => packR 0x11 0x10 0x00 (bitsOf fs) (bitsOf fd) 0x04
  | .addD fd fs ft => packR 0x11 0x11 (bitsOf ft) (bitsOf fs) (bitsOf fd) 0x00
  | .subD fd fs ft => packR 0x11 0x11 (bitsOf ft) (bitsOf fs) (bitsOf fd) 0x01
  | .mulD fd fs ft => packR 0x11 0x11 (bitsOf ft) (bitsOf fs) (bitsOf fd) 0x02
  | .divD fd fs ft => packR 0x11 0x11 (bitsOf ft) (bitsOf fs) (bitsOf fd) 0x03
  | .sqrtD fd fs => packR 0x11 0x11 0x00 (bitsOf fs) (bitsOf fd) 0x04
  | .roundWS fd fs => packR 0x11 0x10 0x00 (bitsOf fs) (bitsOf fd) 0x0C
  | .truncWS fd fs => packR 0x11 0x10 0x00 (bitsOf fs) (bitsOf fd) 0x0D
  | .ceilWS fd fs => packR 0x11 0x10 0x00 (bitsOf fs) (bitsOf fd) 0x0E
  | .floorWS fd fs => packR 0x11 0x10 0x00 (bitsOf fs) (bitsOf fd) 0x0F
  | .roundWD fd fs => packR 0x11 0x11 0x00 (bitsOf fs) (bitsOf fd) 0x0C
  | .truncWD fd fs => packR 0x11 0x11 0x00 (bitsOf fs) (bitsOf fd) 0x0D
  | .ceilWD fd fs => packR 0x11 0x11 0x00 (bitsOf fs) (bitsOf fd) 0x0E
  | .floorWD fd fs => packR 0x11 0x11 0x00 (bitsOf fs) (bitsOf fd) 0x0F
  | .cvtSD fd fs => packR 0x11 0x11 0x00 (bitsOf fs) (bitsOf fd) 0x20
  | .cvtSW fd fs => packR 0x11 0x14 0x00 (bitsOf fs) (bitsOf fd) 0x20
  | .cvtDS fd fs => packR 0x11 0x10 0x00 (bitsOf fs) (bitsOf fd) 0x21
  | .cvtDW fd fs => packR 0x11 0x14 0x00 (bitsOf fs) (bitsOf fd) 0x21
  | .cvtWS fd fs => packR 0x11 0x10 0x00 (bitsOf fs) (bitsOf fd) 0x24
  | .cvtWD fd fs => packR 0x11 0x11 0x00 (bitsOf fs) (bitsOf fd) 0x24
  | .mfc1 rt fs => packR 0x11 0x00 (bitsOf rt) (bitsOf fs) 0x00 0x00
  | .mtc1 rt fs => packR 0x11 0x04 (bitsOf rt) (bitsOf fs) 0x00 0x00
  | .lb rt offset base => packI 0x20 (bitsOf base) (bitsOf rt) (BitVec.ofInt 16 offset)
  | .lbu rt offset base => packI 0x24 (bitsOf base) (bitsOf rt) (BitVec.ofInt 16 offset)
  | .lh rt offset base => packI 0x21 (bitsOf base) (bitsOf rt) (BitVec.ofInt 16 offset)
  | .lhu rt offset base => packI 0x25 (bitsOf base) (bitsOf rt) (BitVec.ofInt 16 offset)
  | .lw rt offset base => packI 0x23 (bitsOf base) (bitsOf rt) (BitVec.ofInt 16 offset)
  | .sb rt offset base => packI 0x28 (bitsOf base) (bitsOf rt) (BitVec.ofInt 16 offset)
  | .sh rt offset base => packI 0x29 (bitsOf base) (bitsOf rt) (BitVec.ofInt 16 offset)
  | .sw rt offset base => packI 0x2B (bitsOf base) (bitsOf rt) (BitVec.ofInt 16 offset)
  | .lwl rt offset base => packI 0x22 (bitsOf base) (bitsOf rt) (BitVec.ofInt 16 offset)
  | .lwr rt offset base => packI 0x26 (bitsOf base) (bitsOf rt) (BitVec.ofInt 16 offset)
  | .swl rt offset base => packI 0x2A (bitsOf base) (bitsOf rt) (BitVec.ofInt 16 offset)
  | .swr rt offset base => packI 0x2E (bitsOf base) (bitsOf rt) (BitVec.ofInt 16 offset)
  | .lwc1 ft offset base => packI 0x31 (bitsOf base) (bitsOf ft) (BitVec.ofInt 16 offset)
  | .swc1 ft offset base => packI 0x39 (bitsOf base) (bitsOf ft) (BitVec.ofInt 16 offset)
  | .ldc1 ft offset base => packI 0x35 (bitsOf base) (bitsOf ft) (BitVec.ofInt 16 offset)
  | .sdc1 ft offset base => packI 0x3D (bitsOf base) (bitsOf ft) (BitVec.ofInt 16 offset)
  | .beq rs rt target => packI 0x04 (bitsOf rs) (bitsOf rt) (branchImm a target)
  | .bne rs rt target => packI 0x05 (bitsOf rs) (bitsOf rt) (branchImm a target)
  | .blez rs target => packI 0x06 (bitsOf rs) 0x00 (branchImm a target)
  | .bgtz rs target => packI 0x07 (bitsOf rs) 0x00 (branchImm a target)
  | .bltz rs target => packI 0x01 (bitsOf rs) 0x00 (branchImm a target)
  | .bgez rs target => packI 0x01 (bitsOf rs) 0x01 (branchImm a target)
  | .j target => packJ 0x02 (jumpIndex target)
  | .jal target => packJ 0x03 (jumpIndex target)
  | .jr rs => packR 0x00 (bitsOf rs) 0x00 0x00 0x00 0x08
  | .jalr rd rs => packR 0x00 (bitsOf rs) 0x00 (bitsOf rd) 0x00 0x09
  | .cEqS cc fs ft => packR 0x11 0x10 (bitsOf ft) (bitsOf fs) (ccZero cc) 0x32
  | .cLtS cc fs ft => packR 0x11 0x10 (bitsOf ft) (bitsOf fs) (ccZero cc) 0x3C
  | .cLeS cc fs ft => packR 0x11 0x10 (bitsOf ft) (bitsOf fs) (ccZero cc) 0x3E
  | .cEqD cc fs ft => packR 0x11 0x11 (bitsOf ft) (bitsOf fs) (ccZero cc) 0x32
  | .cLtD cc fs ft => packR 0x11 0x11 (bitsOf ft) (bitsOf fs) (ccZero cc) 0x3C
  | .cLeD cc fs ft => packR 0x11 0x11 (bitsOf ft) (bitsOf fs) (ccZero cc) 0x3E
  | .bc1t cc target => packI 0x11 0x08 (ccTf cc 1#1) (branchImm a target)
  | .bc1f cc target => packI 0x11 0x08 (ccTf cc 0#1) (branchImm a target)
  | .movt rd rs cc => packR 0x00 (bitsOf rs) (ccTf cc 1#1) (bitsOf rd) 0x00 0x01
  | .movf rd rs cc => packR 0x00 (bitsOf rs) (ccTf cc 0#1) (bitsOf rd) 0x00 0x01
  | .movn rd rs rt => packR 0x00 (bitsOf rs) (bitsOf rt) (bitsOf rd) 0x00 0x0B
  | .movz rd rs rt => packR 0x00 (bitsOf rs) (bitsOf rt) (bitsOf rd) 0x00 0x0A
  | .clz rd rs => packR 0x1C (bitsOf rs) (bitsOf rd) (bitsOf rd) 0x00 0x20
  | .clo rd rs => packR 0x1C (bitsOf rs) (bitsOf rd) (bitsOf rd) 0x00 0x21
  | .syscall => packR 0x00 0x00 0x00 0x00 0x00 0x0C

/-- The encoder: the word of a well-formed record whose operands are in the encodable ranges; other records exist at
level 1 only (R86). -/
def encode (a : Word) (i : Instr) : Option Word :=
  if i.wellFormed && i.encodable a then some (i.toWord a) else none

/-! ### The opcode table -/

/-- One row of opcode_table.json: a word `w` is the instruction when `w &&& mask = bits` (R88). -/
structure Row where
  mnemonic : String
  bits     : Word
  mask     : Word
deriving DecidableEq, Repr

def Row.fits (r : Row) (w : Word) : Bool := w &&& r.mask == r.bits

/-- The row of each instruction, from the table of R88. -/
def Instr.row : Instr → Row
  | .add _ _ _ => ⟨"add", 0x00000020, 0xFC0007FF⟩
  | .addu _ _ _ => ⟨"addu", 0x00000021, 0xFC0007FF⟩
  | .sub _ _ _ => ⟨"sub", 0x00000022, 0xFC0007FF⟩
  | .subu _ _ _ => ⟨"subu", 0x00000023, 0xFC0007FF⟩
  | .addi _ _ _ => ⟨"addi", 0x20000000, 0xFC000000⟩
  | .addiu _ _ _ => ⟨"addiu", 0x24000000, 0xFC000000⟩
  | .slt _ _ _ => ⟨"slt", 0x0000002A, 0xFC0007FF⟩
  | .sltu _ _ _ => ⟨"sltu", 0x0000002B, 0xFC0007FF⟩
  | .slti _ _ _ => ⟨"slti", 0x28000000, 0xFC000000⟩
  | .sltiu _ _ _ => ⟨"sltiu", 0x2C000000, 0xFC000000⟩
  | .lui _ _ => ⟨"lui", 0x3C000000, 0xFFE00000⟩
  | .and _ _ _ => ⟨"and", 0x00000024, 0xFC0007FF⟩
  | .or _ _ _ => ⟨"or", 0x00000025, 0xFC0007FF⟩
  | .nor _ _ _ => ⟨"nor", 0x00000027, 0xFC0007FF⟩
  | .xor _ _ _ => ⟨"xor", 0x00000026, 0xFC0007FF⟩
  | .andi _ _ _ => ⟨"andi", 0x30000000, 0xFC000000⟩
  | .ori _ _ _ => ⟨"ori", 0x34000000, 0xFC000000⟩
  | .xori _ _ _ => ⟨"xori", 0x38000000, 0xFC000000⟩
  | .sll _ _ _ => ⟨"sll", 0x00000000, 0xFFE0003F⟩
  | .srl _ _ _ => ⟨"srl", 0x00000002, 0xFFE0003F⟩
  | .sra _ _ _ => ⟨"sra", 0x00000003, 0xFFE0003F⟩
  | .sllv _ _ _ => ⟨"sllv", 0x00000004, 0xFC0007FF⟩
  | .srlv _ _ _ => ⟨"srlv", 0x00000006, 0xFC0007FF⟩
  | .srav _ _ _ => ⟨"srav", 0x00000007, 0xFC0007FF⟩
  | .mul _ _ _ => ⟨"mul", 0x70000002, 0xFC0007FF⟩
  | .mult _ _ => ⟨"mult", 0x00000018, 0xFC00FFFF⟩
  | .multu _ _ => ⟨"multu", 0x00000019, 0xFC00FFFF⟩
  | .div _ _ => ⟨"div", 0x0000001A, 0xFC00FFFF⟩
  | .divu _ _ => ⟨"divu", 0x0000001B, 0xFC00FFFF⟩
  | .madd _ _ => ⟨"madd", 0x70000000, 0xFC00FFFF⟩
  | .maddu _ _ => ⟨"maddu", 0x70000001, 0xFC00FFFF⟩
  | .msub _ _ => ⟨"msub", 0x70000004, 0xFC00FFFF⟩
  | .msubu _ _ => ⟨"msubu", 0x70000005, 0xFC00FFFF⟩
  | .mfhi _ => ⟨"mfhi", 0x00000010, 0xFFFF07FF⟩
  | .mflo _ => ⟨"mflo", 0x00000012, 0xFFFF07FF⟩
  | .addS _ _ _ => ⟨"add.s", 0x46000000, 0xFFE0003F⟩
  | .subS _ _ _ => ⟨"sub.s", 0x46000001, 0xFFE0003F⟩
  | .mulS _ _ _ => ⟨"mul.s", 0x46000002, 0xFFE0003F⟩
  | .divS _ _ _ => ⟨"div.s", 0x46000003, 0xFFE0003F⟩
  | .sqrtS _ _ => ⟨"sqrt.s", 0x46000004, 0xFFFF003F⟩
  | .addD _ _ _ => ⟨"add.d", 0x46200000, 0xFFE0003F⟩
  | .subD _ _ _ => ⟨"sub.d", 0x46200001, 0xFFE0003F⟩
  | .mulD _ _ _ => ⟨"mul.d", 0x46200002, 0xFFE0003F⟩
  | .divD _ _ _ => ⟨"div.d", 0x46200003, 0xFFE0003F⟩
  | .sqrtD _ _ => ⟨"sqrt.d", 0x46200004, 0xFFFF003F⟩
  | .roundWS _ _ => ⟨"round.w.s", 0x4600000C, 0xFFFF003F⟩
  | .truncWS _ _ => ⟨"trunc.w.s", 0x4600000D, 0xFFFF003F⟩
  | .ceilWS _ _ => ⟨"ceil.w.s", 0x4600000E, 0xFFFF003F⟩
  | .floorWS _ _ => ⟨"floor.w.s", 0x4600000F, 0xFFFF003F⟩
  | .roundWD _ _ => ⟨"round.w.d", 0x4620000C, 0xFFFF003F⟩
  | .truncWD _ _ => ⟨"trunc.w.d", 0x4620000D, 0xFFFF003F⟩
  | .ceilWD _ _ => ⟨"ceil.w.d", 0x4620000E, 0xFFFF003F⟩
  | .floorWD _ _ => ⟨"floor.w.d", 0x4620000F, 0xFFFF003F⟩
  | .cvtSD _ _ => ⟨"cvt.s.d", 0x46200020, 0xFFFF003F⟩
  | .cvtSW _ _ => ⟨"cvt.s.w", 0x46800020, 0xFFFF003F⟩
  | .cvtDS _ _ => ⟨"cvt.d.s", 0x46000021, 0xFFFF003F⟩
  | .cvtDW _ _ => ⟨"cvt.d.w", 0x46800021, 0xFFFF003F⟩
  | .cvtWS _ _ => ⟨"cvt.w.s", 0x46000024, 0xFFFF003F⟩
  | .cvtWD _ _ => ⟨"cvt.w.d", 0x46200024, 0xFFFF003F⟩
  | .mfc1 _ _ => ⟨"mfc1", 0x44000000, 0xFFE007FF⟩
  | .mtc1 _ _ => ⟨"mtc1", 0x44800000, 0xFFE007FF⟩
  | .lb _ _ _ => ⟨"lb", 0x80000000, 0xFC000000⟩
  | .lbu _ _ _ => ⟨"lbu", 0x90000000, 0xFC000000⟩
  | .lh _ _ _ => ⟨"lh", 0x84000000, 0xFC000000⟩
  | .lhu _ _ _ => ⟨"lhu", 0x94000000, 0xFC000000⟩
  | .lw _ _ _ => ⟨"lw", 0x8C000000, 0xFC000000⟩
  | .sb _ _ _ => ⟨"sb", 0xA0000000, 0xFC000000⟩
  | .sh _ _ _ => ⟨"sh", 0xA4000000, 0xFC000000⟩
  | .sw _ _ _ => ⟨"sw", 0xAC000000, 0xFC000000⟩
  | .lwl _ _ _ => ⟨"lwl", 0x88000000, 0xFC000000⟩
  | .lwr _ _ _ => ⟨"lwr", 0x98000000, 0xFC000000⟩
  | .swl _ _ _ => ⟨"swl", 0xA8000000, 0xFC000000⟩
  | .swr _ _ _ => ⟨"swr", 0xB8000000, 0xFC000000⟩
  | .lwc1 _ _ _ => ⟨"lwc1", 0xC4000000, 0xFC000000⟩
  | .swc1 _ _ _ => ⟨"swc1", 0xE4000000, 0xFC000000⟩
  | .ldc1 _ _ _ => ⟨"ldc1", 0xD4000000, 0xFC000000⟩
  | .sdc1 _ _ _ => ⟨"sdc1", 0xF4000000, 0xFC000000⟩
  | .beq _ _ _ => ⟨"beq", 0x10000000, 0xFC000000⟩
  | .bne _ _ _ => ⟨"bne", 0x14000000, 0xFC000000⟩
  | .blez _ _ => ⟨"blez", 0x18000000, 0xFC1F0000⟩
  | .bgtz _ _ => ⟨"bgtz", 0x1C000000, 0xFC1F0000⟩
  | .bltz _ _ => ⟨"bltz", 0x04000000, 0xFC1F0000⟩
  | .bgez _ _ => ⟨"bgez", 0x04010000, 0xFC1F0000⟩
  | .j _ => ⟨"j", 0x08000000, 0xFC000000⟩
  | .jal _ => ⟨"jal", 0x0C000000, 0xFC000000⟩
  | .jr _ => ⟨"jr", 0x00000008, 0xFC1FFFFF⟩
  | .jalr _ _ => ⟨"jalr", 0x00000009, 0xFC1F07FF⟩
  | .cEqS _ _ _ => ⟨"c.eq.s", 0x46000032, 0xFFE000FF⟩
  | .cLtS _ _ _ => ⟨"c.lt.s", 0x4600003C, 0xFFE000FF⟩
  | .cLeS _ _ _ => ⟨"c.le.s", 0x4600003E, 0xFFE000FF⟩
  | .cEqD _ _ _ => ⟨"c.eq.d", 0x46200032, 0xFFE000FF⟩
  | .cLtD _ _ _ => ⟨"c.lt.d", 0x4620003C, 0xFFE000FF⟩
  | .cLeD _ _ _ => ⟨"c.le.d", 0x4620003E, 0xFFE000FF⟩
  | .bc1t _ _ => ⟨"bc1t", 0x45010000, 0xFFE30000⟩
  | .bc1f _ _ => ⟨"bc1f", 0x45000000, 0xFFE30000⟩
  | .movt _ _ _ => ⟨"movt", 0x00010001, 0xFC0307FF⟩
  | .movf _ _ _ => ⟨"movf", 0x00000001, 0xFC0307FF⟩
  | .movn _ _ _ => ⟨"movn", 0x0000000B, 0xFC0007FF⟩
  | .movz _ _ _ => ⟨"movz", 0x0000000A, 0xFC0007FF⟩
  | .clz _ _ => ⟨"clz", 0x70000020, 0xFC0007FF⟩
  | .clo _ _ => ⟨"clo", 0x70000021, 0xFC0007FF⟩
  | .syscall => ⟨"syscall", 0x0000000C, 0xFC00003F⟩

/-- One instruction of each of the 102 kinds, in the table's order. -/
def oneOfEach : List Instr :=
  [ (.add 0 0 0 : Instr), .addu 0 0 0, .sub 0 0 0, .subu 0 0 0, .addi 0 0 0, .addiu 0 0 0, .slt 0 0 0, .sltu 0 0 0,
    .slti 0 0 0, .sltiu 0 0 0, .lui 0 0, .and 0 0 0, .or 0 0 0, .nor 0 0 0, .xor 0 0 0, .andi 0 0 0, .ori 0 0 0 ]
  ++ [ (.xori 0 0 0 : Instr), .sll 0 0 0, .srl 0 0 0, .sra 0 0 0, .sllv 0 0 0, .srlv 0 0 0, .srav 0 0 0, .mul 0 0 0,
    .mult 0 0, .multu 0 0, .div 0 0, .divu 0 0, .madd 0 0, .maddu 0 0, .msub 0 0, .msubu 0 0, .mfhi 0 ]
  ++ [ (.mflo 0 : Instr), .addS 0 0 0, .subS 0 0 0, .mulS 0 0 0, .divS 0 0 0, .sqrtS 0 0, .addD 0 0 0, .subD 0 0 0,
    .mulD 0 0 0, .divD 0 0 0, .sqrtD 0 0, .roundWS 0 0, .truncWS 0 0, .ceilWS 0 0, .floorWS 0 0, .roundWD 0 0,
    .truncWD 0 0 ]
  ++ [ (.ceilWD 0 0 : Instr), .floorWD 0 0, .cvtSD 0 0, .cvtSW 0 0, .cvtDS 0 0, .cvtDW 0 0, .cvtWS 0 0, .cvtWD 0 0,
    .mfc1 0 0, .mtc1 0 0, .lb 0 0 0, .lbu 0 0 0, .lh 0 0 0, .lhu 0 0 0, .lw 0 0 0, .sb 0 0 0, .sh 0 0 0 ]
  ++ [ (.sw 0 0 0 : Instr), .lwl 0 0 0, .lwr 0 0 0, .swl 0 0 0, .swr 0 0 0, .lwc1 0 0 0, .swc1 0 0 0, .ldc1 0 0 0,
    .sdc1 0 0 0, .beq 0 0 0, .bne 0 0 0, .blez 0 0, .bgtz 0 0, .bltz 0 0, .bgez 0 0, .j 0, .jal 0 ]
  ++ [ (.jr 0 : Instr), .jalr 0 0, .cEqS 0 0 0, .cLtS 0 0 0, .cLeS 0 0 0, .cEqD 0 0 0, .cLtD 0 0 0, .cLeD 0 0 0,
    .bc1t 0 0, .bc1f 0 0, .movt 0 0 0, .movf 0 0 0, .movn 0 0 0, .movz 0 0 0, .clz 0 0, .clo 0 0, .syscall ]

/-- The rows of the opcode table (R88). -/
def opcodeTable : List Row := oneOfEach.map Instr.row

/-! ### The host's numbering -/

/-- What the decoder reads from the word with bits `w`, standing at the entry point of the example configuration
(the host's form: bit 0 is the least significant bit of the word, and bits from `nbits` on are 0). -/
def decodeTableWord (nbits w : Nat) : Option Instr :=
  match decode Cfg.example.initialPc (BitVec.ofNat 32 (w % 2 ^ nbits)) with
  | .ok i => some i
  | .error _ => none

end Sys2Proof
end

