-- ==== Sys2Proof/Machine/State.lean ====
section
/-! DEFINITION. The state of the machine (spec/10_state.md, INVENTORY.md '## State'), the reasons a step can stop, and
the state after reset. Plain data throughout. A fault of the SPEC is no `Fault` here: it is a state, `run = faulted`
with a fault record, reached by a next step (60_exceptions.md R315; notes/assumptions/1.md). -/

namespace Sys2Proof.Machine

/-- The run state (10_state.md R22). `halted` and `faulted` are terminal. -/
inductive RunState where
  | ready
  | running
  | halted
  | faulted
deriving DecidableEq, Repr

/-- The nine fault kinds (60_exceptions.md R301 to R309); they have no numeric code (R300). `Halt` (R310) is no error
and has no record. -/
inductive FaultKind where
  | arithmeticOverflow
  | divisionByZero
  | invalidImmediate
  | invalidArgument
  | invalidCharacter
  | invalidInput
  | memoryOutOfBounds
  | misalignedAddress
  | reservedInstruction
deriving DecidableEq, Repr

/-- The fault record (60_exceptions.md R311): the kind, the address of the failing instruction, the offending address
of an access or fetch, and the word of a `ReservedInstruction`, which is raised "with the word and its address"
(30_encoding.md R90). Its `message` is host text (`FaultRecord.message`), its snapshot the state itself. -/
structure FaultRecord where
  kind       : FaultKind
  addr       : Word
  badAddress : Option Word
  word       : Option Word
deriving DecidableEq, Repr

/-- FREE: the host's text for a fault record (60_exceptions.md R311: "host text, not specified"). -/
opaque FaultRecord.message : FaultRecord → String

/-- An entry of the host's open file table (47_syscall.md R285). -/
inductive FileEntry where
  | stdin
  | stdout
  | stderr
  | other (handle : Nat)
deriving DecidableEq, Repr

/-- The registers as a register dump shows them (47_syscall.md R284). -/
structure RegSnapshot where
  x  : Vector Word 32
  f  : Vector Word 32
  hi : Word
  lo : Word
  pc : Word
  cc : Vector Bool 8
deriving DecidableEq, Repr

/-- One write to the console (47_syscall.md R272, D25): bytes where the spec fixes the text, else the value printed. -/
inductive OutEvent where
  | bytes (t : List Byte)
  | printFloat (bits : Word)
  | printDouble (bits : DWord)
  | printHex (value : Word)
  | memDump (first : Word) (bytes : List Byte)
  | regDump (regs : RegSnapshot)
  | dumpFiles (entries : List FileEntry)
deriving DecidableEq, Repr

/-- One slot of the instruction store `IMem` (10_state.md R25): an instruction record (level 1, the normative form)
or a 32-bit word (level 2) (00_scope.md R5, 70_reset_and_hazards.md R332). -/
inductive Slot where
  | record (i : Instr)
  | word (w : Word)
deriving DecidableEq, Repr

/-- The byte store: (address, byte) pairs in one canonical form (`Memory.wf`): addresses rising, no entry equal to what
an unlisted address reads as. -/
abbrev Memory := List Host.Cell

/-- The state. `cfg` and `text` are the parameters of the launch; no step changes them (10_state.md R25). -/
structure State where
  /-- integer registers (R10); cell 0 is never read (R11) -/
  x        : Vector Word 32
  /-- floating-point registers, raw bits (R13) -/
  f        : Vector Word 32
  /-- R17 -/
  hi       : Word
  /-- R17 -/
  lo       : Word
  /-- R18 -/
  pc       : Word
  /-- condition flags (R19) -/
  cc       : Vector Bool 8
  /-- `Mem` (R25) -/
  mem      : Memory
  /-- R20 -/
  heapPtr  : Word
  /-- R21 -/
  icount   : Nat
  /-- R22 -/
  run      : RunState
  /-- R23 -/
  fault    : Option FaultRecord
  /-- the exit code handed to the host with `Halt` (47_syscall.md R281) -/
  exitCode : Option Int
  /-- `Cfg` (00_scope.md R4) -/
  cfg      : Cfg
  /-- `IMem` (R25) -/
  text     : List Slot
  /-- console output (47_syscall.md R272) -/
  out      : List OutEvent
  /-- console input: the lines the host has supplied, oldest first (47_syscall.md R272) -/
  input    : List (List Byte)
  /-- the generator state `g` (47_syscall.md R289) -/
  gen      : Nat
  /-- the host's open file table (47_syscall.md R285) -/
  files    : List FileEntry
  /-- the MODEL's own: how many free values have been taken (notes/assumptions/8.md) -/
  draws    : Nat
deriving DecidableEq, Repr

/-- Why a step has no next state. None of these is a fault of the spec. -/
inductive Fault where
  /-- Raised by `step` in `halted` and `faulted`: "terminal, no further instructions execute" (60_exceptions.md R318).
  Safe. -/
  | runEnded
  /-- Raised by services 5 and 8 when the host has supplied no line: "a model gives the step no successor"
  (47_syscall.md R272, U10). Safe. -/
  | awaitingInput
  /-- Raised by services 5 and 6 on a numeral outside `[-2^31, 2^31)`: `stuck`, "the spec gives the step no result"
  (93_implementation_defined.md U9, of 47_syscall.md R277, R278; notes/assumptions/9.md). Safe. -/
  | numeralOutOfRange
  /-- Raised by services 4 and 6 when no byte of the whole address space ends the string, so that the loop of
  47_syscall.md R276 never ends. Safe. -/
  | endlessString
deriving DecidableEq, Repr

/-- Why the model gives no meaning. -/
inductive Refusal where
  /-- Raised by an arm of `exec` whose instruction has no meaning yet. Safe. -/
  | notModelled (mnemonic : String)
  /-- Raised by `step` on a slot that holds an ill-formed record, and by the loader: "refused by the model (no step)"
  (30_encoding.md R81, U5). Safe. -/
  | illFormedRecord
  /-- Raised by the loader: "a configuration that breaks one is refused, not given a meaning" (00_scope.md R4), a
  `text_image` that differs from the level-2 words included; and on a loader write that is not admitted (notes/assumptions/19.md). Safe. -/
  | illFormedLaunch
deriving DecidableEq, Repr

/-- What a meaning answers. -/
abbrev Result := Host.Outcome State Fault Refusal

/-- The state `Ready` of a launch (10_state.md R27, 70_reset_and_hazards.md R330), from its configuration, instruction
store, memory images and supplied input lines. `$sp` starts at `reg_init($sp)`, as R27 says, also where a launch makes
that other than `initial_sp` (DESIGN CHOICE, notes/assumptions/32.md). -/
def State.initial (cfg : Cfg) (text : List Slot) (mem : Memory) (input : List (List Byte)) : State :=
  { x := cfg.regInit.x
    f := cfg.regInit.f
    hi := cfg.regInit.hi
    lo := cfg.regInit.lo
    pc := cfg.initialPc
    cc := Vector.replicate 8 false
    mem := mem
    heapPtr := cfg.heapBase
    icount := 0
    run := .ready
    fault := none
    exitCode := none
    cfg := cfg
    text := text
    out := []
    input := input
    gen := 0
    files := [.stdin, .stdout, .stderr]
    draws := 0 }

/-- The machine right after reset: the example configuration, no program loaded, memory with nothing listed, and no
input line supplied, the lines being an open parameter (DESIGN CHOICE, notes/assumptions/3.md, 6.md, 11.md). -/
def State.reset : State := State.initial Cfg.example [] [] []

end Sys2Proof.Machine
end

