-- ==== Sys2Proof/Machine/Ops.lean ====
section
/-! DEFINITION. The named operations over memory, registers, console and run state that every meaning is written from
(spec/10_state.md, 20_memory.md, 47_syscall.md R272, 60_exceptions.md). -/

namespace Sys2Proof.Machine

/-! ### The byte store -/

/-- What a byte that nothing has written reads as: "default all zero" (10_state.md R27, D22; notes/assumptions/5.md). -/
def Memory.unlisted : Byte := 0

def Memory.get : Memory → Nat → Byte
  | [], _ => Memory.unlisted
  | (k, b) :: m, a => if k = a then b else Memory.get m a

/-- The memory without an entry for `a`. -/
def Memory.erase : Memory → Nat → Memory
  | [], _ => []
  | (k, b) :: m, a => if k = a then Memory.erase m a else (k, b) :: Memory.erase m a

/-- Puts an entry before the first entry of a higher address. -/
def Memory.insert : Memory → Nat → Byte → Memory
  | [], a, b => [(a, b)]
  | (k, c) :: m, a, b => if a < k then (a, b) :: (k, c) :: m else (k, c) :: Memory.insert m a b

/-- Writes one byte, keeping the canonical form. -/
def Memory.set (m : Memory) (a : Nat) (b : Byte) : Memory :=
  if b = Memory.unlisted then m.erase a else (m.erase a).insert a b

/-- Writes bytes at rising addresses from `a`. -/
def Memory.setAll : Memory → Nat → List Byte → Memory
  | m, _, [] => m
  | m, a, b :: bs => Memory.setAll (m.set a b) (a + 1) bs

/-- The canonical form from address `lo` on. -/
def Memory.wfFrom : Nat → Memory → Bool
  | _, [] => true
  | lo, (k, b) :: m => decide (lo ≤ k) && b != Memory.unlisted && Memory.wfFrom (k + 1) m

/-- The canonical form: addresses strictly rising, no entry equal to what an unlisted address reads as. -/
def Memory.wf (m : Memory) : Bool := Memory.wfFrom 0 m

/-! ### Byte order (20_memory.md R44) -/

/-- The value of bytes, the first least significant. -/
def composeLow : List Byte → Nat
  | [] => 0
  | b :: bs => b.toNat + 256 * composeLow bs

/-- The `n` low bytes of a value, the least significant first. -/
def splitLow : Nat → Nat → List Byte
  | 0, _ => []
  | n + 1, v => BitVec.ofNat 8 v :: splitLow n (v / 256)

/-- The value of bytes in address order. -/
def compose : Endian → List Byte → Nat
  | .little, bs => composeLow bs
  | .big, bs => composeLow bs.reverse

/-- The `n` bytes of a value in address order. -/
def split : Endian → Nat → Nat → List Byte
  | .little, n, v => splitLow n v
  | .big, n, v => (splitLow n v).reverse

/-! ### Address map and admission (20_memory.md R42, R43, R48) -/

/-- `[a, a + n)` lies in `[lo, hi)`. -/
def within (lo hi a n : Nat) : Bool := decide (lo ≤ a) && decide (a + n ≤ hi)

/-- `text_end` (R42). -/
def State.textEnd (s : State) : Nat := s.cfg.textBase + 4 * s.text.length

def State.inText (s : State) (a n : Nat) : Bool := within s.cfg.textBase s.textEnd a n

/-- The data range or the dynamic region holds all of `[a, a + n)`. -/
def Cfg.inStore (c : Cfg) (a n : Nat) : Bool :=
  within c.dataMin c.dataMax a n || within c.heapBase.toNat c.stackTop a n

/-- A read of `n` bytes at `a` is admitted (R43, R48). -/
def State.readAdmitted (s : State) (a n : Nat) : Bool :=
  decide (a + n ≤ 2 ^ 32) && (s.inText a n || Cfg.inStore s.cfg a n)

/-- A write of `n` bytes at `a` is admitted (R43, R48): text is "read-only to data ops". -/
def State.writeAdmitted (s : State) (a n : Nat) : Bool :=
  decide (a + n ≤ 2 ^ 32) && Cfg.inStore s.cfg a n

/-- The byte of a level-2 text slot (R45): `text_image` is the words of `IMem` in the byte order of R44. -/
def State.textByte (s : State) (a : Nat) : Option Byte :=
  if s.inText a 1 then
    match s.text[(a - s.cfg.textBase) / 4]? with
    | some (.word w) => (split s.cfg.endian 4 w.toNat)[(a - s.cfg.textBase) % 4]?
    | _ => none
  else none

/-- `Mem[a]`: one byte. Level-2 text slots supply their own bytes (R45); every other byte stands in `mem`. A launch whose
`text_image` differs from its words is refused (`Launch.textImageAgrees`); in a state that no launch gives, `mem` may
list other bytes there, and the word is read (DESIGN CHOICE, notes/assumptions/7.md). -/
def State.byteAt (s : State) (a : Nat) : Byte :=
  if Cfg.inStore s.cfg a 1 then Memory.get s.mem a else (s.textByte a).getD (Memory.get s.mem a)

/-- `n` bytes in address order. -/
def State.bytesAt (s : State) : Nat → Nat → List Byte
  | _, 0 => []
  | a, n + 1 => s.byteAt a :: s.bytesAt (a + 1) n

/-! ### Raising (60_exceptions.md R300) -/

/-- What `raise K(info)` carries: the kind and, for a memory fault of an access, the offending address (R311). -/
structure Raise where
  kind : FaultKind
  bad  : Option Word
deriving DecidableEq, Repr

/-- TAKING A FAULT (R315), shared by fetch, decode and execute: the record is set and `run` becomes `faulted`; nothing
else changes. There is no handler, no vector and no saved status (R321), and there is no return (R317): `faulted` is
terminal. -/
def State.enterFaulted (s : State) (r : FaultRecord) : State := { s with run := .faulted, fault := some r }

/-- A fault at a known address: of a fetch, where `addr` is the address of the attempt (R311). -/
def State.takeFaultAt (s : State) (addr : Word) (r : Raise) : State :=
  s.enterFaulted { kind := r.kind, addr := addr, badAddress := r.bad, word := none }

/-- An execute fault (R315). While the instruction of address `a` executes, `pc` is `a + 4`, so `a` is `pc - 4`
(notes/assumptions/22.md). -/
def State.takeFault (s : State) (r : Raise) : State := s.takeFaultAt (s.pc - 4) r

/-- The fault of a reserved word, "with the word and its address" (30_encoding.md R90), after the advance (R309). -/
def State.takeReserved (s : State) (w : Word) : State :=
  s.enterFaulted { kind := .reservedInstruction, addr := s.pc - 4, badAddress := none, word := some w }

/-- An instruction that either raises, and then writes nothing (R300), or completes with the state `k` gives. -/
def State.complete {α : Type} (s : State) (e : Except Raise α) (k : α → State) : Result :=
  match e with
  | .error r => .next (s.takeFault r)
  | .ok v => .next (k v)

/-- `Halt` (R310): the run ends and the exit code is handed to the host. -/
def State.halt (s : State) (code : Int) : State := { s with run := .halted, exitCode := some code }

/-! ### Registers (10_state.md) -/

/-- `x[i]`; `x[0]` reads as zero (R11). -/
def State.getX (s : State) (r : Reg) : Word := if r = 0 then 0 else s.x[r]

/-- `x[i] <- v`; a write of `x[0]` is discarded (R11). -/
def State.setX (s : State) (r : Reg) (v : Word) : State :=
  if r = 0 then s else { s with x := s.x.set r.val v r.isLt }

/-- `f[i]`: 32 raw bits (R13). -/
def State.getF (s : State) (r : FReg) : Word := s.f[r]

def State.setF (s : State) (r : FReg) (v : Word) : State := { s with f := s.f.set r.val v r.isLt }

/-- `fd[i]`, `i` even: the odd register holds bits 63:32 (R15). -/
def State.getFD (s : State) (r : FReg) : DWord := s.getF (r + 1) ++ s.getF r

def State.setFD (s : State) (r : FReg) (v : DWord) : State :=
  (s.setF r (v.extractLsb' 0 32)).setF (r + 1) (v.extractLsb' 32 32)

/-- The accumulator `hi ‖ lo` (42_muldiv.md). -/
def State.getHiLo (s : State) : DWord := s.hi ++ s.lo

def State.setHiLo (s : State) (v : DWord) : State :=
  { s with hi := v.extractLsb' 32 32, lo := v.extractLsb' 0 32 }

/-- `pc <- t` (45_branch_jump.md R230). -/
def State.setPc (s : State) (t : Word) : State := { s with pc := t }

/-! ### The fields no register names -/

def State.setHeapPtr (s : State) (a : Word) : State := { s with heapPtr := a }

def State.setRun (s : State) (r : RunState) : State := { s with run := r }

def State.setOut (s : State) (es : List OutEvent) : State := { s with out := es }

def State.setInput (s : State) (ls : List (List Byte)) : State := { s with input := ls }

def State.setGen (s : State) (g : Nat) : State := { s with gen := g }

/-- The model's own count of free values taken (notes/assumptions/8.md). -/
def State.setDraws (s : State) (n : Nat) : State := { s with draws := n }

/-! ### The access primitives (20_memory.md R47 to R50) -/

/-- `MemRead(addr, n)`: alignment first, then bounds, then the bytes by R44. -/
def State.memRead (s : State) (addr : Word) (n : Nat) : Except Raise Nat :=
  if addr.toNat % n ≠ 0 then .error ⟨.misalignedAddress, some addr⟩
  else if s.readAdmitted addr.toNat n then .ok (compose s.cfg.endian (s.bytesAt addr.toNat n))
  else .error ⟨.memoryOutOfBounds, some addr⟩

/-- Replaces exactly the named bytes (R49). -/
def State.putBytes (s : State) (a : Nat) (bs : List Byte) : State := { s with mem := s.mem.setAll a bs }

/-- `MemWrite(addr, n, v)`. -/
def State.memWrite (s : State) (addr : Word) (n v : Nat) : Except Raise State :=
  if addr.toNat % n ≠ 0 then .error ⟨.misalignedAddress, some addr⟩
  else if s.writeAdmitted addr.toNat n then .ok (s.putBytes addr.toNat (split s.cfg.endian n v))
  else .error ⟨.memoryOutOfBounds, some addr⟩

/-- `MemReadBytes`: `n` bytes from `lo`, no alignment check (R50). A fault names the effective address `ea` of the
instruction (notes/assumptions/17.md). -/
def State.readPart (s : State) (ea : Word) (lo n : Nat) : Except Raise Nat :=
  if s.readAdmitted lo n then .ok (compose s.cfg.endian (s.bytesAt lo n))
  else .error ⟨.memoryOutOfBounds, some ea⟩

/-- `MemWriteByte`, for all the bytes of a partial-word store at once: every touched byte is checked before any is
written (R50). -/
def State.writePart (s : State) (ea : Word) (lo n v : Nat) : Except Raise State :=
  if s.writeAdmitted lo n then .ok (s.putBytes lo (split s.cfg.endian n v))
  else .error ⟨.memoryOutOfBounds, some ea⟩

/-- `sbrk(n)` (20_memory.md R53): the old heap pointer and the new one. -/
def State.sbrk (s : State) (n : Word) : Except Raise (Word × Word) :=
  if n.toInt < 0 then .error ⟨.invalidArgument, none⟩
  else if 4 * ((s.heapPtr.toNat + n.toNat + 3) / 4) ≤ s.cfg.initialSp.toNat then
    .ok (s.heapPtr, BitVec.ofNat 32 (4 * ((s.heapPtr.toNat + n.toNat + 3) / 4)))
  else .error ⟨.memoryOutOfBounds, none⟩

/-! ### The host boundary (47_syscall.md R272, R289) -/

/-- "write `t`", for a text the spec fixes; the empty text writes nothing. -/
def State.write (s : State) (t : List Byte) : State :=
  if t = [] then s else s.setOut (s.out ++ [.bytes t])

/-- Writes a value whose text is a host function of it (notes/assumptions/12.md). -/
def State.emit (s : State) (e : OutEvent) : State := s.setOut (s.out ++ [e])

/-- "read a line": the host's next line and the state that has consumed it, or none while the host has supplied
none (notes/assumptions/11.md). -/
def State.readLine (s : State) : Option (List Byte × State) :=
  match s.input with
  | [] => none
  | l :: ls => some (l, s.setInput ls)

/-- The registers as a dump shows them (R284; notes/assumptions/29.md). -/
def State.snapshot (s : State) : RegSnapshot :=
  { x := s.x.set 0 0, f := s.f, hi := s.hi, lo := s.lo, pc := s.pc, cc := s.cc }

/-- `RAND_DEST` as a register number (R290). -/
def RandDest.reg : RandDest → Reg
  | .v0 => 2
  | .a0 => 4

/-- `rangeG(g, b)` (R292): a free draw brought into `[0, b]`, and the next generator state. -/
def rangeG (g b : Nat) : Nat × Nat := ((Config.rawRangeG g b).1 % (b + 1), (Config.rawRangeG g b).2)

/-! ### Fetch and advance (20_memory.md R51, 10_state.md R18, 70_reset_and_hazards.md R332) -/

/-- `pc <- W(u(a) + 4)` and `icount <- icount + 1`, before the instruction executes. -/
def State.advance (s : State) : State := { s with pc := s.pc + 4, icount := s.icount + 1 }

/-- The slot at an address of the text (R51). -/
def State.slotAt (s : State) (a : Word) : Option Slot := s.text[(a.toNat - s.cfg.textBase) / 4]?

/-- What the fetch and decode of a step come to. -/
inductive Fetched where
  /-- There is no step. -/
  | stop (r : Fault)
  /-- The step is over: a fetch fault, or a reserved word. -/
  | done (s : State)
  /-- The slot holds an ill-formed record. -/
  | refuse (r : Refusal)
  /-- The instruction to execute, and the advanced state. -/
  | run (i : Instr) (s : State)

/-- A slot at address `s.pc`: a record as it stands, a word through the decoder. A reserved word faults after the
advance (60_exceptions.md R309). -/
def State.decodeSlot (s : State) : Slot → Fetched
  | .record i => if i.wellFormed then .run i s.advance else .refuse .illFormedRecord
  | .word w =>
    match decode s.pc w with
    | .ok i => .run i s.advance
    | .error _ => .done (s.advance.takeReserved w)

/-- The fetch of R51 on a running state: alignment, then bounds, then the slot. A fetch fault leaves `pc` and `icount`
(R315). -/
def State.fetchSlot (s : State) : Fetched :=
  if s.pc.toNat % 4 ≠ 0 then .done (s.takeFaultAt s.pc ⟨.misalignedAddress, some s.pc⟩)
  else if s.cfg.textBase ≤ s.pc.toNat then
    match s.slotAt s.pc with
    | some slot => s.decodeSlot slot
    | none => .done (s.takeFaultAt s.pc ⟨.memoryOutOfBounds, some s.pc⟩)
  else .done (s.takeFaultAt s.pc ⟨.memoryOutOfBounds, some s.pc⟩)

/-- `step` up to the instruction (R332): it applies only in `ready` and `running` (60_exceptions.md R318), and sets
`run` to `running`. -/
def State.fetch (s : State) : Fetched :=
  match s.run with
  | .halted => .stop .runEnded
  | .faulted => .stop .runEnded
  | .ready => (s.setRun .running).fetchSlot
  | .running => s.fetchSlot

end Sys2Proof.Machine
end

