-- ==== Sys2Proof/Machine/Operands.lean ====
section
/-! DEFINITION. The operand forms (spec/30_encoding.md R80): the effective address, the range checks of immediates,
shift amounts and shifts, the link value, and the bytes a partial-word access touches. -/

namespace Sys2Proof.Machine

/-- `ea = W(u(x[base]) + offset)` (44_loadstore.md R200, 20_memory.md R57): the one addressing mode. -/
def State.ea (s : State) (base : Reg) (offset : Int) : Word := W ((s.getX base).toNat + offset)

/-- `require 0 <= imm < 65536 else raise InvalidImmediate` (41_bitwise_shift.md R124); the immediate as a Word. -/
def immediate16 (imm : Int) : Except Raise Word :=
  if 0 ≤ imm ∧ imm < 65536 then .ok (W imm) else .error ⟨.invalidImmediate, none⟩

/-- `require 0 <= sa < 32 else raise InvalidImmediate` (41_bitwise_shift.md R127); the amount. -/
def shiftLiteral (sa : Int) : Except Raise Nat :=
  if 0 ≤ sa ∧ sa < 32 then .ok (sa.toNat % 32) else .error ⟨.invalidImmediate, none⟩

/-- The amount of a variable shift: `u(x[rs]) mod 32` (41_bitwise_shift.md R130). -/
def State.shiftAmount (s : State) (rs : Reg) : Nat := (s.getX rs).toNat % 32

/-- `W(u(v) * 2^n)`. -/
def shiftLeft (v : Word) (n : Nat) : Word := BitVec.ofNat 32 (v.toNat * 2 ^ n)

/-- `W(floor(u(v) / 2^n))`: zeros enter at bit 31. -/
def shiftRightLogical (v : Word) (n : Nat) : Word := BitVec.ofNat 32 (v.toNat / 2 ^ n)

/-- `W(floor(s(v) / 2^n))`: copies of bit 31 enter at the top. -/
def shiftRightArithmetic (v : Word) (n : Nat) : Word := W (v.toInt / 2 ^ n)

/-- The link value of `jal` and `jalr` (45_branch_jump.md R241): the advanced pc. -/
def State.link (s : State) : Word := s.pc

/-- `ea mod 4` (44_loadstore.md, partial-word forms). -/
def byteIndex (ea : Word) : Nat := ea.toNat % 4

/-- The bytes `lwl` and `swl` touch, as (lowest address, count): `M0..Mk` in little-endian order, `Mk..M3` in
big-endian order (44_loadstore.md R209, R211). -/
def leftPart (e : Endian) (ea : Word) : Nat × Nat :=
  match e with
  | .little => (ea.toNat - byteIndex ea, byteIndex ea + 1)
  | .big => (ea.toNat, 4 - byteIndex ea)

/-- The bytes `lwr` and `swr` touch: `Mk..M3` little-endian, `M0..Mk` big-endian (44_loadstore.md R210, R212). -/
def rightPart (e : Endian) (ea : Word) : Nat × Nat :=
  match e with
  | .little => (ea.toNat, 4 - byteIndex ea)
  | .big => (ea.toNat - byteIndex ea, byteIndex ea + 1)

/-- The register after `n` loaded bytes of value `v` replace its most significant bytes (R209). -/
def mergeHigh (old : Word) (n v : Nat) : Word :=
  BitVec.ofNat 32 (v * 2 ^ (8 * (4 - n)) + old.toNat % 2 ^ (8 * (4 - n)))

/-- The register after `n` loaded bytes of value `v` replace its least significant bytes (R210). -/
def mergeLow (old : Word) (n v : Nat) : Word :=
  BitVec.ofNat 32 (old.toNat / 2 ^ (8 * n) * 2 ^ (8 * n) + v)

/-- The `n` most significant bytes of a register, as a value (R211). -/
def highPart (v : Word) (n : Nat) : Nat := v.toNat / 2 ^ (8 * (4 - n))

/-- The `n` least significant bytes of a register, as a value (R212). -/
def lowPart (v : Word) (n : Nat) : Nat := v.toNat % 2 ^ (8 * n)

end Sys2Proof.Machine
end

