-- ==== Sys2Proof/Machine/Arith.lean ====
section
/-! DEFINITION. Integer arithmetic and compare (spec/40_arithmetic_compare.md). -/

namespace Sys2Proof.Machine

/-- Signed mode: the unbounded result `z`, or `ArithmeticOverflow` when it is outside `[-2^31, 2^31)`. -/
def State.putChecked (s : State) (rd : Reg) (z : Int) : Result :=
  if -2147483648 ≤ z ∧ z < 2147483648 then .next (s.setX rd (W z))
  else .next (s.takeFault ⟨.arithmeticOverflow, none⟩)

/-- "result is 1 or 0". -/
def truth (b : Bool) : Word := if b then 1 else 0

/-- `add rd, rs, rt` (R100). -/
def execAdd (rd rs rt : Reg) (s : State) : Result :=
  s.putChecked rd ((s.getX rs).toInt + (s.getX rt).toInt)

/-- `addu rd, rs, rt` (R101). -/
def execAddu (rd rs rt : Reg) (s : State) : Result :=
  .next (s.setX rd (W ((s.getX rs).toNat + (s.getX rt).toNat)))

/-- `sub rd, rs, rt` (R102). -/
def execSub (rd rs rt : Reg) (s : State) : Result :=
  s.putChecked rd ((s.getX rs).toInt - (s.getX rt).toInt)

/-- `subu rd, rs, rt` (R103). -/
def execSubu (rd rs rt : Reg) (s : State) : Result :=
  .next (s.setX rd (W ((s.getX rs).toNat - (s.getX rt).toNat)))

/-- `addi rt, rs, imm` (R104). -/
def execAddi (rt rs : Reg) (imm : Int) (s : State) : Result :=
  s.putChecked rt ((s.getX rs).toInt + imm)

/-- `addiu rt, rs, imm` (R105). -/
def execAddiu (rt rs : Reg) (imm : Int) (s : State) : Result :=
  .next (s.setX rt (W ((s.getX rs).toNat + imm)))

/-- `slt rd, rs, rt` (R106). -/
def execSlt (rd rs rt : Reg) (s : State) : Result :=
  .next (s.setX rd (truth (decide ((s.getX rs).toInt < (s.getX rt).toInt))))

/-- `sltu rd, rs, rt` (R107). -/
def execSltu (rd rs rt : Reg) (s : State) : Result :=
  .next (s.setX rd (truth (decide ((s.getX rs).toNat < (s.getX rt).toNat))))

/-- `slti rt, rs, imm` (R108). -/
def execSlti (rt rs : Reg) (imm : Int) (s : State) : Result :=
  .next (s.setX rt (truth (decide ((s.getX rs).toInt < imm))))

/-- `sltiu rt, rs, imm` (R109): the immediate is made a Word and read unsigned. -/
def execSltiu (rt rs : Reg) (imm : Int) (s : State) : Result :=
  .next (s.setX rt (truth (decide ((s.getX rs).toNat < (W imm).toNat))))

/-- `lui rt, imm` (R110). -/
def execLui (rt : Reg) (imm : Int) (s : State) : Result :=
  s.complete (immediate16 imm) fun _ => s.setX rt (W (imm * 65536))

end Sys2Proof.Machine
end

