-- ==== Sys2Proof/Machine/BitCount.lean ====
section
/-! DEFINITION. Bit counting (spec/46_bitcount.md, 90_conflicts.md C10). -/

namespace Sys2Proof.Machine

/-- How many of the bits `n-1, n-2, ..., 0` of `v`, from the top, equal `b` before the first that does not. -/
def leadingRun (v : Word) (b : Bool) : Nat → Nat
  | 0 => 0
  | n + 1 => if v.getLsbD n = b then leadingRun v b n + 1 else 0

/-- `clz rd, rs` (R265). -/
def execClz (rd rs : Reg) (s : State) : Result := .next (s.setX rd (W (leadingRun (s.getX rs) false 32)))

/-- `clo rd, rs` (R266). -/
def execClo (rd rs : Reg) (s : State) : Result := .next (s.setX rd (W (leadingRun (s.getX rs) true 32)))

end Sys2Proof.Machine
end

