-- ==== Sys2Proof/Machine/Bitwise.lean ====
section
/-! DEFINITION. Bitwise logic and shifts (spec/41_bitwise_shift.md). -/

namespace Sys2Proof.Machine

/-- `and rd, rs, rt` (R120). -/
def execAnd (rd rs rt : Reg) (s : State) : Result := .next (s.setX rd (s.getX rs &&& s.getX rt))

/-- `or rd, rs, rt` (R121). -/
def execOr (rd rs rt : Reg) (s : State) : Result := .next (s.setX rd (s.getX rs ||| s.getX rt))

/-- `nor rd, rs, rt` (R122). -/
def execNor (rd rs rt : Reg) (s : State) : Result := .next (s.setX rd (~~~(s.getX rs ||| s.getX rt)))

/-- `xor rd, rs, rt` (R123). -/
def execXor (rd rs rt : Reg) (s : State) : Result := .next (s.setX rd (s.getX rs ^^^ s.getX rt))

/-- `andi rt, rs, imm` (R124). -/
def execAndi (rt rs : Reg) (imm : Int) (s : State) : Result :=
  s.complete (immediate16 imm) fun w => s.setX rt (s.getX rs &&& w)

/-- `ori rt, rs, imm` (R125). -/
def execOri (rt rs : Reg) (imm : Int) (s : State) : Result :=
  s.complete (immediate16 imm) fun w => s.setX rt (s.getX rs ||| w)

/-- `xori rt, rs, imm` (R126). -/
def execXori (rt rs : Reg) (imm : Int) (s : State) : Result :=
  s.complete (immediate16 imm) fun w => s.setX rt (s.getX rs ^^^ w)

/-- `sll rd, rt, sa` (R127). -/
def execSll (rd rt : Reg) (sa : Int) (s : State) : Result :=
  s.complete (shiftLiteral sa) fun n => s.setX rd (shiftLeft (s.getX rt) n)

/-- `srl rd, rt, sa` (R128). -/
def execSrl (rd rt : Reg) (sa : Int) (s : State) : Result :=
  s.complete (shiftLiteral sa) fun n => s.setX rd (shiftRightLogical (s.getX rt) n)

/-- `sra rd, rt, sa` (R129). -/
def execSra (rd rt : Reg) (sa : Int) (s : State) : Result :=
  s.complete (shiftLiteral sa) fun n => s.setX rd (shiftRightArithmetic (s.getX rt) n)

/-- `sllv rd, rt, rs` (R130). -/
def execSllv (rd rt rs : Reg) (s : State) : Result :=
  .next (s.setX rd (shiftLeft (s.getX rt) (s.shiftAmount rs)))

/-- `srlv rd, rt, rs` (R131). -/
def execSrlv (rd rt rs : Reg) (s : State) : Result :=
  .next (s.setX rd (shiftRightLogical (s.getX rt) (s.shiftAmount rs)))

/-- `srav rd, rt, rs` (R132). -/
def execSrav (rd rt rs : Reg) (s : State) : Result :=
  .next (s.setX rd (shiftRightArithmetic (s.getX rt) (s.shiftAmount rs)))

end Sys2Proof.Machine
end

