-- ==== Sys2Proof/Machine/Ieee.lean ====
section
/-! DEFINITION. IEEE-754 binary32 and binary64 as spec/43_float.md R160, R161, R174 use them: what a bit pattern
stands for, exact arithmetic on it, and one rounding (to nearest, ties to even) at the end.

A finite datum is held EXACTLY, as a whole number of units of the format's smallest subnormal, `2^-unitExp`. -/

namespace Sys2Proof.Machine

/-- A binary format: `p` bits of precision (the hidden bit included) and `e` exponent bits. -/
structure Fmt where
  p : Nat
  e : Nat
deriving DecidableEq, Repr

/-- binary32: 8 exponent bits, 23 fraction bits (R160). -/
def single : Fmt := ⟨24, 8⟩

/-- binary64: 11 exponent bits, 52 fraction bits (R160). -/
def double : Fmt := ⟨53, 11⟩

/-- The smallest subnormal is `2^-unitExp`: bias + fraction bits - 1. -/
def Fmt.unitExp (k : Fmt) : Nat := 2 ^ (k.e - 1) - 1 + k.p - 2

/-- The pattern of plus infinity. -/
def Fmt.infBits (k : Fmt) : Nat := (2 ^ k.e - 1) * 2 ^ (k.p - 1)

def Fmt.signBit (k : Fmt) : Nat := 2 ^ (k.p - 1 + k.e)

/-- The datum of a bit pattern: a finite real (a signed zero included), an infinity or a NaN. -/
inductive Datum where
  | nan
  | inf (neg : Bool)
  | fin (neg : Bool) (units : Nat)
deriving DecidableEq, Repr

def Fmt.negative (k : Fmt) (b : Nat) : Bool := b / k.signBit % 2 == 1

def Fmt.exponentField (k : Fmt) (b : Nat) : Nat := b / 2 ^ (k.p - 1) % 2 ^ k.e

def Fmt.fractionField (k : Fmt) (b : Nat) : Nat := b % 2 ^ (k.p - 1)

/-- `F32(b)` and `F64(b)` (00_scope.md section 6). -/
def Fmt.datum (k : Fmt) (b : Nat) : Datum :=
  if k.exponentField b = 2 ^ k.e - 1 then
    if k.fractionField b = 0 then .inf (k.negative b) else .nan
  else if k.exponentField b = 0 then .fin (k.negative b) (k.fractionField b)
  else .fin (k.negative b) ((k.fractionField b + 2 ^ (k.p - 1)) * 2 ^ (k.exponentField b - 1))

/-- A magnitude with its sign. -/
def signed (neg : Bool) (m : Nat) : Int := if neg then -(m : Int) else m

/-- The pattern of a sign and a magnitude pattern. -/
def Fmt.pack (k : Fmt) (neg : Bool) (mag : Nat) : Nat := (if neg then k.signBit else 0) + mag

/-! ### Rounding -/

/-- `rhe(n / d)`: to the nearest integer, ties to even. -/
def roundHalfEven (n : Int) (d : Nat) : Int :=
  if 2 * (n % d) < d then n / d
  else if 2 * (n % d) = d ∧ n / d % 2 = 0 then n / d
  else n / d + 1

/-- `floor(n / d)`. -/
def floorDiv (n : Int) (d : Nat) : Int := n / d

/-- `ceil(n / d)`. -/
def ceilDiv (n : Int) (d : Nat) : Int := -(-n / d)

/-- `trunc(n / d)`. -/
def truncDiv (n : Int) (d : Nat) : Int := n.tdiv d

/-- How many low bits a magnitude whose integer part is `m` units loses to the precision: 0 for subnormals. -/
def Fmt.excess (k : Fmt) (m : Nat) : Nat := Nat.log2 m - (k.p - 1)

/-- The magnitude pattern of `q` steps of `2^t` units; past the largest finite number, infinity. A `q` that reached
`2^p` by rounding carries into the exponent by itself. -/
def Fmt.magnitude (k : Fmt) (t q : Nat) : Nat := min (t * 2 ^ (k.p - 1) + q) k.infBits

/-- `n / d` units rounded once, to nearest, ties to even (R160), as a magnitude pattern. -/
def Fmt.roundUnits (k : Fmt) (n d : Nat) : Nat :=
  k.magnitude (k.excess (n / d)) (roundHalfEven n (d * 2 ^ k.excess (n / d))).toNat

/-- `rne32` and `rne64` of the real `n / d` with a sign. -/
def Fmt.rne (k : Fmt) (neg : Bool) (n d : Nat) : Nat := k.pack neg (k.roundUnits (n * 2 ^ k.unitExp) d)

/-- One more binary digit of a square root. -/
def rootDigit (r x : Nat) : Nat := if (2 * r + 1) ^ 2 ≤ x then 2 * r + 1 else 2 * r

/-- The integer square root of an `x` below `4^b`, digit by digit. -/
def isqrt : Nat → Nat → Nat
  | 0, _ => 0
  | b + 1, x => rootDigit (isqrt b (x / 4)) x

/-- The square root of `n / d`, `n / d` below `4^b`, to the nearest integer, ties to even. -/
def rootHalfEven (b n d : Nat) : Nat :=
  if 4 * n < d * (2 * isqrt b (n / d) + 1) ^ 2 then isqrt b (n / d)
  else if 4 * n = d * (2 * isqrt b (n / d) + 1) ^ 2 ∧ isqrt b (n / d) % 2 = 0 then isqrt b (n / d)
  else isqrt b (n / d) + 1

/-- The square root of `x`, in units, rounded once, as a magnitude pattern: `2^(log2 x / 2)` is its leading bit. -/
def Fmt.roundRoot (k : Fmt) (x : Nat) : Nat :=
  k.magnitude (Nat.log2 x / 2 - (k.p - 1)) (rootHalfEven k.p x (4 ^ (Nat.log2 x / 2 - (k.p - 1))))

/-! ### Arithmetic on bit patterns: `none` stands for a generated NaN (R161) -/

def Datum.negate : Datum → Datum
  | .nan => .nan
  | .inf s => .inf (!s)
  | .fin s m => .fin (!s) m

/-- The sum of two finite data, rounded; an exact zero is `-0` only when both are negative (R160). -/
def Fmt.addFinite (k : Fmt) (s : Bool) (m : Nat) (t : Bool) (n : Nat) : Nat :=
  if signed s m + signed t n = 0 then k.pack (s && t) 0
  else k.pack (decide (signed s m + signed t n < 0)) (k.roundUnits (signed s m + signed t n).natAbs 1)

def Fmt.addData (k : Fmt) : Datum → Datum → Option Nat
  | .nan, _ => none
  | _, .nan => none
  | .inf s, .inf t => if s = t then some (k.pack s k.infBits) else none
  | .inf s, .fin _ _ => some (k.pack s k.infBits)
  | .fin _ _, .inf t => some (k.pack t k.infBits)
  | .fin s m, .fin t n => some (k.addFinite s m t n)

/-- R164, R169. -/
def Fmt.add (k : Fmt) (a b : Nat) : Option Nat := k.addData (k.datum a) (k.datum b)

/-- R165, R170: `a - b` is `a + (-b)`. So `(-0) - (+0)` is `-0`, as in IEEE-754; R160's sentence on an exact zero result
of operands of opposite sign, read to the letter, gives `+0` (DESIGN CHOICE, notes/assumptions/35.md). -/
def Fmt.sub (k : Fmt) (a b : Nat) : Option Nat := k.addData (k.datum a) (k.datum b).negate

def Fmt.mulData (k : Fmt) : Datum → Datum → Option Nat
  | .nan, _ => none
  | _, .nan => none
  | .inf s, .inf t => some (k.pack (s != t) k.infBits)
  | .inf s, .fin t n => if n = 0 then none else some (k.pack (s != t) k.infBits)
  | .fin s m, .inf t => if m = 0 then none else some (k.pack (s != t) k.infBits)
  | .fin s m, .fin t n => some (k.pack (s != t) (k.roundUnits (m * n) (2 ^ k.unitExp)))

/-- R166, R171. -/
def Fmt.mul (k : Fmt) (a b : Nat) : Option Nat := k.mulData (k.datum a) (k.datum b)

/-- A non-zero dividend over a zero is the infinity whose sign `zeroSign` takes from the two signs (R167, R172, U7). -/
def Fmt.divData (k : Fmt) (zeroSign : Bool → Bool → Bool) : Datum → Datum → Option Nat
  | .nan, _ => none
  | _, .nan => none
  | .inf _, .inf _ => none
  | .inf s, .fin t n => some (k.pack (if n = 0 then zeroSign s t else s != t) k.infBits)
  | .fin s _, .inf t => some (k.pack (s != t) 0)
  | .fin s m, .fin t n =>
    if n = 0 then if m = 0 then none else some (k.pack (zeroSign s t) k.infBits)
    else some (k.pack (s != t) (k.roundUnits (m * 2 ^ k.unitExp) n))

/-- The sign `div.s` gives a non-zero dividend over a zero (R167, U7). -/
def Div0SignRule.forSingle : Div0SignRule → Bool → Bool → Bool
  | .asWritten, s, t => s != t
  | .ieeeBoth, s, t => s != t
  | .dividendBoth, s, _ => s

/-- The sign `div.d` gives a non-zero dividend over a zero (R172, U7). -/
def Div0SignRule.forDouble : Div0SignRule → Bool → Bool → Bool
  | .asWritten, s, _ => s
  | .ieeeBoth, s, t => s != t
  | .dividendBoth, s, _ => s

/-- R167, R172. -/
def Fmt.div (k : Fmt) (zeroSign : Bool → Bool → Bool) (a b : Nat) : Option Nat :=
  k.divData zeroSign (k.datum a) (k.datum b)

/-- R168, R173: the root of a zero is that zero; of a negative number, a NaN. -/
def Fmt.sqrtData (k : Fmt) : Datum → Option Nat
  | .nan => none
  | .inf s => if s then none else some k.infBits
  | .fin s m =>
    if m = 0 then some (k.pack s 0)
    else if s then none else some (k.roundRoot (m * 2 ^ k.unitExp))

def Fmt.sqrt (k : Fmt) (a : Nat) : Option Nat := k.sqrtData (k.datum a)

/-! ### Conversions -/

/-- A datum of the format `source`, rounded to the format `k` (R183, R185). -/
def Fmt.convert (k source : Fmt) (a : Nat) : Option Nat :=
  match source.datum a with
  | .nan => none
  | .inf s => some (k.pack s k.infBits)
  | .fin s m => some (k.rne s m (2 ^ source.unitExp))

/-- An integer, rounded to the format (R184, R186); 0 gives `+0`. -/
def Fmt.ofInt (k : Fmt) (z : Int) : Nat := k.rne (decide (z < 0)) z.natAbs 1

/-- `toint32` (R174): every failing input gives the pattern of `INT32_MAX`. -/
def Fmt.toInt32 (k : Fmt) (rnd : Int → Nat → Int) (a : Nat) : Word :=
  match k.datum a with
  | .nan => 0x7FFFFFFF
  | .inf _ => 0x7FFFFFFF
  | .fin s m =>
    if -2147483648 ≤ rnd (signed s m) (2 ^ k.unitExp) ∧ rnd (signed s m) (2 ^ k.unitExp) ≤ 2147483647 then
      W (rnd (signed s m) (2 ^ k.unitExp))
    else 0x7FFFFFFF

/-! ### Writing a result -/

/-- A free pattern made a NaN of the format; every NaN is its own image (R161; notes/assumptions/8.md). -/
def nan32 (raw : Word) : Word :=
  if raw.extractLsb' 0 23 = 0 then raw ||| 0x7FC00000 else raw ||| 0x7F800000

def nan64 (raw : DWord) : DWord :=
  if raw.extractLsb' 0 52 = 0 then raw ||| 0x7FF8000000000000 else raw ||| 0x7FF0000000000000

/-- `f[fd] <- r`, where `none` is a generated NaN: a free value. -/
def State.putSingle (s : State) (fd : FReg) (r : Option Nat) : State :=
  match r with
  | some b => s.setF fd (BitVec.ofNat 32 b)
  | none => (s.setDraws (s.draws + 1)).setF fd (nan32 (Config.freeNaN32 s.draws))

/-- `fd[fd] <- r`, where `none` is a generated NaN: a free value. -/
def State.putDouble (s : State) (fd : FReg) (r : Option Nat) : State :=
  match r with
  | some b => s.setFD fd (BitVec.ofNat 64 b)
  | none => (s.setDraws (s.draws + 1)).setFD fd (nan64 (Config.freeNaN64 s.draws))

end Sys2Proof.Machine
end

