-- ==== Sys2Proof/Machine/Flags.lean ====
section
/-! DEFINITION. The eight condition flags (spec/10_state.md R19) and the floating comparisons that write them
(spec/45_branch_jump.md R242). There are no integer flags: overflow is a fault (R19). -/

namespace Sys2Proof.Machine

/-- `cc[k]`. -/
def State.getCC (s : State) (k : CC) : Bool := s.cc[k]

/-- `cc[k] <- b`: exactly one flag (R19). -/
def State.setCC (s : State) (k : CC) (b : Bool) : State := { s with cc := s.cc.set k.val b k.isLt }

/-- Equality of data (R242): false with a NaN, `-0 = +0`. -/
def Datum.eq : Datum → Datum → Bool
  | .inf s, .inf t => s == t
  | .fin s m, .fin t n => signed s m == signed t n
  | _, _ => false

/-- `a < b` (R242): false with a NaN, `-inf < every finite < +inf`. -/
def Datum.lt : Datum → Datum → Bool
  | .nan, _ => false
  | _, .nan => false
  | .inf s, .inf t => s && !t
  | .inf s, .fin _ _ => s
  | .fin _ _, .inf t => !t
  | .fin s m, .fin t n => decide (signed s m < signed t n)

/-- `a <= b` (R242). -/
def Datum.le (a b : Datum) : Bool := a.lt b || a.eq b

/-- Compares two single registers and writes one flag. -/
def State.compareSingle (s : State) (k : CC) (p : Datum → Datum → Bool) (fs ft : FReg) : State :=
  s.setCC k (p (single.datum (s.getF fs).toNat) (single.datum (s.getF ft).toNat))

/-- Compares two register pairs and writes one flag. -/
def State.compareDouble (s : State) (k : CC) (p : Datum → Datum → Bool) (fs ft : FReg) : State :=
  s.setCC k (p (double.datum (s.getFD fs).toNat) (double.datum (s.getFD ft).toNat))

end Sys2Proof.Machine
end

