-- ==== Sys2Proof/Machine/Branch.lean ====
section
/-! DEFINITION. Branches, jumps, floating compares, conditional moves (spec/45_branch_jump.md). While an instruction
executes, `pc` already holds the address of the next one, and a taken branch or a jump overwrites it: there is no delay
slot (R230). No instruction here faults; a bad target faults at the next fetch. -/

namespace Sys2Proof.Machine

/-- `if c then pc <- target`. -/
def State.branchIf (s : State) (c : Bool) (target : Word) : Result := .next (if c then s.setPc target else s)

/-- `if c then x[rd] <- x[rs]`; when the condition is false nothing is written. -/
def State.moveIf (s : State) (c : Bool) (rd rs : Reg) : Result := .next (if c then s.setX rd (s.getX rs) else s)

/-! ### Conditional branches on integer registers -/

/-- `beq rs, rt, target` (R231). -/
def execBeq (rs rt : Reg) (target : Word) (s : State) : Result := s.branchIf (s.getX rs == s.getX rt) target

/-- `bne rs, rt, target` (R232). -/
def execBne (rs rt : Reg) (target : Word) (s : State) : Result := s.branchIf (s.getX rs != s.getX rt) target

/-- `blez rs, target` (R233). -/
def execBlez (rs : Reg) (target : Word) (s : State) : Result := s.branchIf (decide ((s.getX rs).toInt ≤ 0)) target

/-- `bgtz rs, target` (R234). -/
def execBgtz (rs : Reg) (target : Word) (s : State) : Result := s.branchIf (decide (0 < (s.getX rs).toInt)) target

/-- `bltz rs, target` (R235). -/
def execBltz (rs : Reg) (target : Word) (s : State) : Result := s.branchIf (decide ((s.getX rs).toInt < 0)) target

/-- `bgez rs, target` (R236). -/
def execBgez (rs : Reg) (target : Word) (s : State) : Result := s.branchIf (decide (0 ≤ (s.getX rs).toInt)) target

/-! ### Jumps -/

/-- `j target` (R237). -/
def execJ (target : Word) (s : State) : Result := .next (s.setPc target)

/-- `jal target` (R238). -/
def execJal (target : Word) (s : State) : Result := .next ((s.setX 31 s.link).setPc target)

/-- `jr rs` (R239). -/
def execJr (rs : Reg) (s : State) : Result := .next (s.setPc (s.getX rs))

/-- `jalr rd, rs` (R240): `rs` is read before the link is written. -/
def execJalr (rd rs : Reg) (s : State) : Result := .next ((s.setX rd s.link).setPc (s.getX rs))

/-! ### Floating compares -/

/-- `c.eq.s cc, fs, ft` (R243). -/
def execCEqS (k : CC) (fs ft : FReg) (s : State) : Result := .next (s.compareSingle k Datum.eq fs ft)

/-- `c.lt.s cc, fs, ft` (R244). -/
def execCLtS (k : CC) (fs ft : FReg) (s : State) : Result := .next (s.compareSingle k Datum.lt fs ft)

/-- `c.le.s cc, fs, ft` (R245). -/
def execCLeS (k : CC) (fs ft : FReg) (s : State) : Result := .next (s.compareSingle k Datum.le fs ft)

/-- `c.eq.d cc, fs, ft` (R246). -/
def execCEqD (k : CC) (fs ft : FReg) (s : State) : Result := .next (s.compareDouble k Datum.eq fs ft)

/-- `c.lt.d cc, fs, ft` (R247). -/
def execCLtD (k : CC) (fs ft : FReg) (s : State) : Result := .next (s.compareDouble k Datum.lt fs ft)

/-- `c.le.d cc, fs, ft` (R248). -/
def execCLeD (k : CC) (fs ft : FReg) (s : State) : Result := .next (s.compareDouble k Datum.le fs ft)

/-! ### Branches on a condition flag -/

/-- `bc1t cc, target` (R249). -/
def execBc1t (k : CC) (target : Word) (s : State) : Result := s.branchIf (s.getCC k) target

/-- `bc1f cc, target` (R250). -/
def execBc1f (k : CC) (target : Word) (s : State) : Result := s.branchIf (!s.getCC k) target

/-! ### Conditional moves -/

/-- `movt rd, rs, cc` (R251). -/
def execMovt (rd rs : Reg) (k : CC) (s : State) : Result := s.moveIf (s.getCC k) rd rs

/-- `movf rd, rs, cc` (R252). -/
def execMovf (rd rs : Reg) (k : CC) (s : State) : Result := s.moveIf (!s.getCC k) rd rs

/-- `movn rd, rs, rt` (R253). -/
def execMovn (rd rs rt : Reg) (s : State) : Result := s.moveIf (s.getX rt != 0) rd rs

/-- `movz rd, rs, rt` (R254). -/
def execMovz (rd rs rt : Reg) (s : State) : Result := s.moveIf (s.getX rt == 0) rd rs

end Sys2Proof.Machine
end

