-- ==== Sys2Proof/Machine/Float.lean ====
section
/-! DEFINITION. Floating point (spec/43_float.md): arithmetic, conversions, moves. No instruction here faults (R162).
A `.d` operand is the pair of an even register (10_state.md R16). -/

namespace Sys2Proof.Machine

/-- `F32` reads these 32 bits. -/
def State.singleBits (s : State) (r : FReg) : Nat := (s.getF r).toNat

/-- `F64` reads these 64 bits. -/
def State.doubleBits (s : State) (r : FReg) : Nat := (s.getFD r).toNat

/-! ### Arithmetic, single precision -/

/-- `add.s fd, fs, ft` (R164). -/
def execAddS (fd fs ft : FReg) (s : State) : Result :=
  .next (s.putSingle fd (single.add (s.singleBits fs) (s.singleBits ft)))

/-- `sub.s fd, fs, ft` (R165). -/
def execSubS (fd fs ft : FReg) (s : State) : Result :=
  .next (s.putSingle fd (single.sub (s.singleBits fs) (s.singleBits ft)))

/-- `mul.s fd, fs, ft` (R166). -/
def execMulS (fd fs ft : FReg) (s : State) : Result :=
  .next (s.putSingle fd (single.mul (s.singleBits fs) (s.singleBits ft)))

/-- `div.s fd, fs, ft` (R167); a zero divisor by the rule of U7. -/
def execDivS (fd fs ft : FReg) (s : State) : Result :=
  .next (s.putSingle fd (single.div (Div0SignRule.forSingle s.cfg.div0Sign) (s.singleBits fs) (s.singleBits ft)))

/-- `sqrt.s fd, fs` (R168). -/
def execSqrtS (fd fs : FReg) (s : State) : Result :=
  .next (s.putSingle fd (single.sqrt (s.singleBits fs)))

/-! ### Arithmetic, double precision -/

/-- `add.d fd, fs, ft` (R169). -/
def execAddD (fd fs ft : FReg) (s : State) : Result :=
  .next (s.putDouble fd (double.add (s.doubleBits fs) (s.doubleBits ft)))

/-- `sub.d fd, fs, ft` (R170). -/
def execSubD (fd fs ft : FReg) (s : State) : Result :=
  .next (s.putDouble fd (double.sub (s.doubleBits fs) (s.doubleBits ft)))

/-- `mul.d fd, fs, ft` (R171). -/
def execMulD (fd fs ft : FReg) (s : State) : Result :=
  .next (s.putDouble fd (double.mul (s.doubleBits fs) (s.doubleBits ft)))

/-- `div.d fd, fs, ft` (R172); a zero divisor by the rule of U7. -/
def execDivD (fd fs ft : FReg) (s : State) : Result :=
  .next (s.putDouble fd (double.div (Div0SignRule.forDouble s.cfg.div0Sign) (s.doubleBits fs) (s.doubleBits ft)))

/-- `sqrt.d fd, fs` (R173). -/
def execSqrtD (fd fs : FReg) (s : State) : Result :=
  .next (s.putDouble fd (double.sqrt (s.doubleBits fs)))

/-! ### Float to Word: the destination is one 32-bit register (R163, R174) -/

/-- `round.w.s fd, fs` (R175). -/
def execRoundWS (fd fs : FReg) (s : State) : Result :=
  .next (s.setF fd (single.toInt32 roundHalfEven (s.singleBits fs)))

/-- `trunc.w.s fd, fs` (R176). -/
def execTruncWS (fd fs : FReg) (s : State) : Result :=
  .next (s.setF fd (single.toInt32 truncDiv (s.singleBits fs)))

/-- `ceil.w.s fd, fs` (R177). -/
def execCeilWS (fd fs : FReg) (s : State) : Result :=
  .next (s.setF fd (single.toInt32 ceilDiv (s.singleBits fs)))

/-- `floor.w.s fd, fs` (R178). -/
def execFloorWS (fd fs : FReg) (s : State) : Result :=
  .next (s.setF fd (single.toInt32 floorDiv (s.singleBits fs)))

/-- `round.w.d fd, fs` (R179). -/
def execRoundWD (fd fs : FReg) (s : State) : Result :=
  .next (s.setF fd (double.toInt32 roundHalfEven (s.doubleBits fs)))

/-- `trunc.w.d fd, fs` (R180). -/
def execTruncWD (fd fs : FReg) (s : State) : Result :=
  .next (s.setF fd (double.toInt32 truncDiv (s.doubleBits fs)))

/-- `ceil.w.d fd, fs` (R181). -/
def execCeilWD (fd fs : FReg) (s : State) : Result :=
  .next (s.setF fd (double.toInt32 ceilDiv (s.doubleBits fs)))

/-- `floor.w.d fd, fs` (R182). -/
def execFloorWD (fd fs : FReg) (s : State) : Result :=
  .next (s.setF fd (double.toInt32 floorDiv (s.doubleBits fs)))

/-! ### The cvt family -/

/-- `cvt.s.d fd, fs` (R183). -/
def execCvtSD (fd fs : FReg) (s : State) : Result :=
  .next (s.putSingle fd (single.convert double (s.doubleBits fs)))

/-- `cvt.s.w fd, fs` (R184). -/
def execCvtSW (fd fs : FReg) (s : State) : Result :=
  .next (s.putSingle fd (some (single.ofInt (s.getF fs).toInt)))

/-- `cvt.d.s fd, fs` (R185). -/
def execCvtDS (fd fs : FReg) (s : State) : Result :=
  .next (s.putDouble fd (double.convert single (s.singleBits fs)))

/-- `cvt.d.w fd, fs` (R186). -/
def execCvtDW (fd fs : FReg) (s : State) : Result :=
  .next (s.putDouble fd (some (double.ofInt (s.getF fs).toInt)))

/-- `cvt.w.s fd, fs` (R187). -/
def execCvtWS (fd fs : FReg) (s : State) : Result :=
  .next (s.setF fd (single.toInt32 roundHalfEven (s.singleBits fs)))

/-- `cvt.w.d fd, fs` (R188). -/
def execCvtWD (fd fs : FReg) (s : State) : Result :=
  .next (s.setF fd (double.toInt32 roundHalfEven (s.doubleBits fs)))

/-! ### Moves between the files: 32 raw bits (10_state.md R14) -/

/-- `mfc1 rt, fs` (R189). -/
def execMfc1 (rt : Reg) (fs : FReg) (s : State) : Result := .next (s.setX rt (s.getF fs))

/-- `mtc1 rt, fs` (R190). -/
def execMtc1 (rt : Reg) (fs : FReg) (s : State) : Result := .next (s.setF fs (s.getX rt))

end Sys2Proof.Machine
end

