-- ==== Sys2Proof/Machine/LoadStore.lean ====
section
/-! DEFINITION. Loads and stores (spec/44_loadstore.md). One addressing mode (R200); the checks are those of
20_memory.md R46 to R50. -/

namespace Sys2Proof.Machine

/-- An aligned load of `n` bytes into an integer register, extended by `ext`. -/
def State.loadInto (s : State) (rt : Reg) (ea : Word) (n : Nat) (ext : Nat → Word) : Result :=
  s.complete (s.memRead ea n) fun v => s.setX rt (ext v)

/-- An aligned store of the low `n` bytes of a value. -/
def State.store (s : State) (ea : Word) (n v : Nat) : Result := s.complete (s.memWrite ea n v) id

/-- `sext_8`. -/
def signExtend8 (v : Nat) : Word := (BitVec.ofNat 8 v).signExtend 32

/-- `sext_16`. -/
def signExtend16 (v : Nat) : Word := (BitVec.ofNat 16 v).signExtend 32

/-- `zext_8` and `zext_16` of a value already in range, and a whole Word. -/
def zeroExtend (v : Nat) : Word := BitVec.ofNat 32 v

/-- What a partial-word load does with the bytes it touches: `part` says which, `merge` puts them into the register's
existing bytes. -/
def State.loadPart (s : State) (rt : Reg) (ea : Word) (part : Nat × Nat) (merge : Word → Nat → Nat → Word) : Result :=
  s.complete (s.readPart ea part.1 part.2) fun v => s.setX rt (merge (s.getX rt) part.2 v)

/-- What a partial-word store does: `field` takes the stored bytes from the register. -/
def State.storePart (s : State) (rt : Reg) (ea : Word) (part : Nat × Nat) (field : Word → Nat → Nat) : Result :=
  s.complete (s.writePart ea part.1 part.2 (field (s.getX rt) part.2)) id

/-! ### Aligned integer loads -/

/-- `lb rt, offset(base)` (R201). -/
def execLb (rt : Reg) (offset : Int) (base : Reg) (s : State) : Result :=
  s.loadInto rt (s.ea base offset) 1 signExtend8

/-- `lbu rt, offset(base)` (R202). -/
def execLbu (rt : Reg) (offset : Int) (base : Reg) (s : State) : Result :=
  s.loadInto rt (s.ea base offset) 1 zeroExtend

/-- `lh rt, offset(base)` (R203). -/
def execLh (rt : Reg) (offset : Int) (base : Reg) (s : State) : Result :=
  s.loadInto rt (s.ea base offset) 2 signExtend16

/-- `lhu rt, offset(base)` (R204). -/
def execLhu (rt : Reg) (offset : Int) (base : Reg) (s : State) : Result :=
  s.loadInto rt (s.ea base offset) 2 zeroExtend

/-- `lw rt, offset(base)` (R205). -/
def execLw (rt : Reg) (offset : Int) (base : Reg) (s : State) : Result :=
  s.loadInto rt (s.ea base offset) 4 zeroExtend

/-! ### Aligned integer stores -/

/-- `sb rt, offset(base)` (R206). -/
def execSb (rt : Reg) (offset : Int) (base : Reg) (s : State) : Result :=
  s.store (s.ea base offset) 1 (s.getX rt).toNat

/-- `sh rt, offset(base)` (R207). -/
def execSh (rt : Reg) (offset : Int) (base : Reg) (s : State) : Result :=
  s.store (s.ea base offset) 2 (s.getX rt).toNat

/-- `sw rt, offset(base)` (R208). -/
def execSw (rt : Reg) (offset : Int) (base : Reg) (s : State) : Result :=
  s.store (s.ea base offset) 4 (s.getX rt).toNat

/-! ### Partial-word loads and stores -/

/-- `lwl rt, offset(base)` (R209). -/
def execLwl (rt : Reg) (offset : Int) (base : Reg) (s : State) : Result :=
  s.loadPart rt (s.ea base offset) (leftPart s.cfg.endian (s.ea base offset)) mergeHigh

/-- `lwr rt, offset(base)` (R210). -/
def execLwr (rt : Reg) (offset : Int) (base : Reg) (s : State) : Result :=
  s.loadPart rt (s.ea base offset) (rightPart s.cfg.endian (s.ea base offset)) mergeLow

/-- `swl rt, offset(base)` (R211). -/
def execSwl (rt : Reg) (offset : Int) (base : Reg) (s : State) : Result :=
  s.storePart rt (s.ea base offset) (leftPart s.cfg.endian (s.ea base offset)) highPart

/-- `swr rt, offset(base)` (R212). -/
def execSwr (rt : Reg) (offset : Int) (base : Reg) (s : State) : Result :=
  s.storePart rt (s.ea base offset) (rightPart s.cfg.endian (s.ea base offset)) lowPart

/-! ### Floating-point loads and stores: raw bits (10_state.md R14) -/

/-- `lwc1 ft, offset(base)` (R213). -/
def execLwc1 (ft : FReg) (offset : Int) (base : Reg) (s : State) : Result :=
  s.complete (s.memRead (s.ea base offset) 4) fun v => s.setF ft (BitVec.ofNat 32 v)

/-- `swc1 ft, offset(base)` (R214). -/
def execSwc1 (ft : FReg) (offset : Int) (base : Reg) (s : State) : Result :=
  s.store (s.ea base offset) 4 (s.getF ft).toNat

/-- `ldc1 ft, offset(base)` (R215). -/
def execLdc1 (ft : FReg) (offset : Int) (base : Reg) (s : State) : Result :=
  s.complete (s.memRead (s.ea base offset) 8) fun v => s.setFD ft (BitVec.ofNat 64 v)

/-- `sdc1 ft, offset(base)` (R216). -/
def execSdc1 (ft : FReg) (offset : Int) (base : Reg) (s : State) : Result :=
  s.store (s.ea base offset) 8 (s.getFD ft).toNat

end Sys2Proof.Machine
end

