-- ==== Sys2Proof/Machine/MulDiv.lean ====
section
/-! DEFINITION. Multiply, divide, hi/lo (spec/42_muldiv.md). -/

namespace Sys2Proof.Machine

/-- The product of two registers read signed. -/
def State.signedProduct (s : State) (rs rt : Reg) : Int := (s.getX rs).toInt * (s.getX rt).toInt

/-- The product of two registers read unsigned. -/
def State.unsignedProduct (s : State) (rs rt : Reg) : Int := (s.getX rs).toNat * (s.getX rt).toNat

/-- Quotient to `lo`, remainder to `hi` (R143). -/
def State.putDivision (s : State) (q r : Int) : State := { s with hi := W r, lo := W q }

/-- `mul rd, rs, rt` (R140): `hi` and `lo` are left unchanged. -/
def execMul (rd rs rt : Reg) (s : State) : Result := .next (s.setX rd (W (s.signedProduct rs rt)))

/-- `mult rs, rt` (R141). -/
def execMult (rs rt : Reg) (s : State) : Result := .next (s.setHiLo (W64 (s.signedProduct rs rt)))

/-- `multu rs, rt` (R142). -/
def execMultu (rs rt : Reg) (s : State) : Result := .next (s.setHiLo (W64 (s.unsignedProduct rs rt)))

/-- `div rs, rt` (R143): truncation toward zero; `-2^31 / -1` wraps (D14). -/
def execDiv (rs rt : Reg) (s : State) : Result :=
  if (s.getX rt).toInt = 0 then .next (s.takeFault ⟨.divisionByZero, none⟩)
  else .next (s.putDivision ((s.getX rs).toInt.tdiv (s.getX rt).toInt) ((s.getX rs).toInt.tmod (s.getX rt).toInt))

/-- `divu rs, rt` (R144). -/
def execDivu (rs rt : Reg) (s : State) : Result :=
  if (s.getX rt).toNat = 0 then .next (s.takeFault ⟨.divisionByZero, none⟩)
  else .next (s.putDivision ((s.getX rs).toNat / (s.getX rt).toNat : Nat) ((s.getX rs).toNat % (s.getX rt).toNat : Nat))

/-- `madd rs, rt` (R145): wraps modulo 2^64. -/
def execMadd (rs rt : Reg) (s : State) : Result :=
  .next (s.setHiLo (W64 (s.getHiLo.toInt + s.signedProduct rs rt)))

/-- `maddu rs, rt` (R146). -/
def execMaddu (rs rt : Reg) (s : State) : Result :=
  .next (s.setHiLo (W64 (s.getHiLo.toNat + s.unsignedProduct rs rt)))

/-- `msub rs, rt` (R147). -/
def execMsub (rs rt : Reg) (s : State) : Result :=
  .next (s.setHiLo (W64 (s.getHiLo.toInt - s.signedProduct rs rt)))

/-- `msubu rs, rt` (R148). -/
def execMsubu (rs rt : Reg) (s : State) : Result :=
  .next (s.setHiLo (W64 (s.getHiLo.toNat - s.unsignedProduct rs rt)))

/-- `mfhi rd` (R149). -/
def execMfhi (rd : Reg) (s : State) : Result := .next (s.setX rd s.hi)

/-- `mflo rd` (R150). -/
def execMflo (rd : Reg) (s : State) : Result := .next (s.setX rd s.lo)

end Sys2Proof.Machine
end

