-- ==== Sys2Proof/Machine/Syscall.lean ====
section
/-! DEFINITION. The `syscall` instruction and its services (spec/47_syscall.md). A system call is one atomic
instruction of the core, no trap (60_exceptions.md R323). -/

namespace Sys2Proof.Machine

/-- `$v0` -/
abbrev v0 : Reg := 2

/-- `$a0` -/
abbrev a0 : Reg := 4

/-- `$a1` -/
abbrev a1 : Reg := 5

/-- The services of R271. -/
inductive Service where
  | printInt
  | printFloat
  | printDouble
  | printString
  | readInt
  | atoi
  | readString
  | sbrk
  | exit
  | printChar
  | exit2
  | memoryDump
  | registerDump
  | dumpFiles
  | printHex
  | printBin
  | printUint
  | seed
  | randInt
  | randIntRange
deriving DecidableEq, Repr

/-- The service numbers of R271; any other number has none (R291). -/
def serviceNumbers : List (Int × Service) :=
  [ (1, .printInt), (2, .printFloat), (3, .printDouble), (4, .printString), (5, .readInt), (6, .atoi)
  , (8, .readString), (9, .sbrk), (10, .exit), (11, .printChar), (17, .exit2), (30, .memoryDump)
  , (31, .registerDump), (32, .dumpFiles), (34, .printHex), (35, .printBin), (36, .printUint), (40, .seed)
  , (41, .randInt), (42, .randIntRange) ]

def serviceOf (n : Int) : Option Service := serviceNumbers.lookup n

/-! ### Text (R273, R287; 20_memory.md R55) -/

/-- The decimal digits of `n`, without leading zeros; the fuel is more than their number. -/
def decimalDigits : Nat → Nat → List Byte
  | 0, _ => []
  | k + 1, n =>
    if n < 10 then [BitVec.ofNat 8 (0x30 + n)]
    else decimalDigits k (n / 10) ++ [BitVec.ofNat 8 (0x30 + n % 10)]

/-- `decimal(n)` of a natural number. -/
def decimalNat (n : Nat) : List Byte := decimalDigits (n + 1) n

/-- `decimal(z)` (R273): a `-` for a negative value, no padding, no `+`. -/
def decimal (z : Int) : List Byte := if z < 0 then 0x2D :: decimalNat z.natAbs else decimalNat z.natAbs

/-- The low `n` binary digits of a Word, the highest first (R287). -/
def binaryDigits (v : Word) : Nat → List Byte
  | 0 => []
  | n + 1 => (if v.getLsbD n then 0x31 else 0x30) :: binaryDigits v n

/-- The allowed set of string bytes (20_memory.md R55), without the terminator. -/
def allowedByte (b : Byte) : Bool := b == 0x09 || b == 0x0A || (decide (0x20 ≤ b.toNat) && decide (b.toNat ≤ 0x7E))

/-- The values print_char accepts: the whole Word is tested (R282). -/
def allowedChar (v : Word) : Bool :=
  v == 0 || v == 0x09 || v == 0x0A || (decide (0x20 ≤ v.toNat) && decide (v.toNat ≤ 0x7E))

/-- `[0-9]`. -/
def isDigit (b : Byte) : Bool := decide (0x30 ≤ b.toNat) && decide (b.toNat ≤ 0x39)

/-- The number a list of digits denotes, after the digits of `acc`. -/
def digitsValue (acc : Nat) : List Byte → Nat
  | [] => acc
  | b :: bs => digitsValue (10 * acc + (b.toNat - 0x30)) bs

def parseDigits (bs : List Byte) : Option Nat :=
  if bs ≠ [] ∧ bs.all isDigit then some (digitsValue 0 bs) else none

/-- The integer of a text that matches `-? [0-9]+` (R277, R278). -/
def parseNumeral : List Byte → Option Int
  | [] => none
  | b :: bs =>
    if b = 0x2D then (parseDigits bs).map fun n : Nat => -(n : Int) else (parseDigits (b :: bs)).map fun n : Nat => (n : Int)

/-! ### Strings in memory -/

/-- What reading a string comes to: its bytes, a fault, or no end (the whole address space read without one). -/
inductive StringRead where
  | done (t : List Byte)
  | raised (r : Raise)
  | endless
deriving DecidableEq, Repr

def StringRead.cons (b : Byte) : StringRead → StringRead
  | .done t => .done (b :: t)
  | .raised r => .raised r
  | .endless => .endless

/-- Reading a string (R55, the loop of R276): bytes at `addr, addr + 1, ...`, each read by `MemRead(.., 1)`, up to the first `0x00`; a byte that
`ok` does not let through raises `InvalidCharacter`. At most `k` bytes. -/
def State.readString (s : State) (ok : Byte → Bool) : Nat → Word → StringRead
  | 0, _ => .endless
  | k + 1, addr =>
    match s.memRead addr 1 with
    | .error r => .raised r
    | .ok v =>
      if v = 0 then .done []
      else if ok (BitVec.ofNat 8 v) then (State.readString s ok k (addr + 1)).cons (BitVec.ofNat 8 v)
      else .raised ⟨.invalidCharacter, none⟩

/-- After this many bytes without a terminator every address has been read. -/
def stringLimit : Nat := 2 ^ 32

/-- The string at an address. -/
def State.stringAt (s : State) (ok : Byte → Bool) (addr : Word) : StringRead := s.readString ok stringLimit addr

/-- Continues with the bytes of a string. -/
def State.withString (s : State) (r : StringRead) (k : List Byte → Result) : Result :=
  match r with
  | .done t => k t
  | .raised e => .next (s.takeFault e)
  | .endless => .fault .endlessString

/-! ### Output services (section 3) -/

/-- Service 1 (R273). -/
def servicePrintInt (s : State) : Result := .next (s.write (decimal (s.getX a0).toInt))

/-- Service 2 (R274). -/
def servicePrintFloat (s : State) : Result := .next (s.emit (.printFloat (s.getF 12)))

/-- Service 3 (R275). -/
def servicePrintDouble (s : State) : Result := .next (s.emit (.printDouble (s.getFD 12)))

/-- Service 4 (R276): the whole string is read and validated before anything is written. -/
def servicePrintString (s : State) : Result :=
  s.withString (s.stringAt allowedByte (s.getX a0)) fun t => .next (s.write t)

/-- Service 11 (R282). -/
def servicePrintChar (s : State) : Result :=
  if allowedChar (s.getX a0) then .next (s.write [(s.getX a0).setWidth 8])
  else .next (s.takeFault ⟨.invalidCharacter, none⟩)

/-- Service 34 (R286). -/
def servicePrintHex (s : State) : Result := .next (s.emit (.printHex (s.getX a0)))

/-- Service 35 (R287). -/
def servicePrintBin (s : State) : Result := .next (s.write (binaryDigits (s.getX a0) 32))

/-- Service 36 (R288). -/
def servicePrintUint (s : State) : Result := .next (s.write (decimalNat (s.getX a0).toNat))

/-! ### Input and parsing services (section 4) -/

/-- `x[2] <- W(v)`, "defined when -2^31 <= v < 2^31" (R277, R278); outside that range the step has no successor (U9;
notes/assumptions/9.md). -/
def State.putNumeral (s : State) (v : Int) : Result :=
  if -2147483648 ≤ v ∧ v < 2147483648 then .next (s.setX v0 (W v)) else .fault .numeralOutOfRange

/-- Service 5 (R277): a line that is no numeral has been consumed when it faults (60_exceptions.md R306). -/
def serviceReadInt (s : State) : Result :=
  match s.readLine with
  | none => .fault .awaitingInput
  | some (l, t) =>
    match parseNumeral l with
    | none => .next (t.takeFault ⟨.invalidInput, none⟩)
    | some v => t.putNumeral v

/-- Service 6 (R278): the string is read and validated by 20_memory.md R55, which names this service, and its grammar
is checked when it has ended (notes/assumptions/18.md). -/
def serviceAtoi (s : State) : Result :=
  s.withString (s.stringAt allowedByte (s.getX a0)) fun t =>
    match parseNumeral t with
    | none => .next (s.takeFault ⟨.invalidCharacter, none⟩)
    | some v => s.putNumeral v

/-- The first address of `addr, addr + 1, ...`, `n` of them, that is not writable (R280). -/
def State.firstUnwritable (s : State) : Nat → Word → Option Word
  | 0, _ => none
  | n + 1, addr => if s.writeAdmitted addr.toNat 1 then State.firstUnwritable s n (addr + 1) else some addr

/-- `MemWrite` of one byte at each of `addr, addr + 1, ...` (R280). -/
def State.putEach (s : State) : Word → List Byte → State
  | _, [] => s
  | addr, b :: bs => State.putEach (s.putBytes addr.toNat [b]) (addr + 1) bs

/-- What service 8 stores of a line: up to `m - 1` bytes and a terminator (R280). -/
def storedLine (m : Int) (l : List Byte) : List Byte := l.take (m - 1).toNat ++ [0]

/-- Service 8 (R280). -/
def serviceReadString (s : State) : Result :=
  if (s.getX a1).toInt < 1 then .next s
  else
    match s.readLine with
    | none => .fault .awaitingInput
    | some (l, t) =>
      match t.firstUnwritable (storedLine (s.getX a1).toInt l).length (s.getX a0) with
      | some bad => .next (t.takeFault ⟨.memoryOutOfBounds, some bad⟩)
      | none => .next (t.putEach (s.getX a0) (storedLine (s.getX a1).toInt l))

/-! ### Heap (section 5) -/

/-- Service 9 (R279). -/
def serviceSbrk (s : State) : Result :=
  s.complete (s.sbrk (s.getX a0)) fun p => (s.setHeapPtr p.2).setX v0 p.1

/-! ### Termination (section 6) -/

/-- The number printed at exit (R281, 60_exceptions.md R319). -/
def State.printedCount (s : State) : Nat := if s.cfg.icountIncludesExit then s.icount else s.icount - 1

/-- A newline and the 19 characters `Instruction count: ` (R281). -/
def countText : List Byte :=
  [ 0x0A, 0x49, 0x6E, 0x73, 0x74, 0x72, 0x75, 0x63, 0x74, 0x69, 0x6F, 0x6E, 0x20, 0x63, 0x6F, 0x75, 0x6E, 0x74, 0x3A
  , 0x20 ]

/-- `if show_icount: write "\nInstruction count: " ++ decimal(N)` (R281). -/
def State.writeCount (s : State) : State :=
  if s.cfg.showIcount then s.write (countText ++ decimalNat s.printedCount) else s

/-- Service 10 (R281). -/
def serviceExit (s : State) : Result := .next (s.writeCount.halt 0)

/-- Service 17 (R281). -/
def serviceExit2 (s : State) : Result := .next (s.writeCount.halt (s.getX a0).toInt)

/-! ### Dumps (section 7) -/

/-- The bytes of a dump, each read by `MemRead(.., 1)` (R283). -/
def State.readEach (s : State) : Nat → Word → Except Raise (List Byte)
  | 0, _ => .ok []
  | n + 1, addr =>
    match s.memRead addr 1 with
    | .error r => .error r
    | .ok v =>
      match State.readEach s n (addr + 1) with
      | .error r => .error r
      | .ok bs => .ok (BitVec.ofNat 8 v :: bs)

/-- Service 30 (R283). -/
def serviceMemoryDump (s : State) : Result :=
  s.complete (s.readEach (s.getX a1).toNat (s.getX a0)) fun bs => s.emit (.memDump (s.getX a0) bs)

/-- Service 31 (R284). -/
def serviceRegisterDump (s : State) : Result := .next (s.emit (.regDump s.snapshot))

/-- Service 32 (R285). -/
def serviceDumpFiles (s : State) : Result := .next (s.emit (.dumpFiles s.files))

/-! ### Pseudo-random numbers (section 8) -/

/-- Service 40 (R289). -/
def serviceSeed (s : State) : Result := .next (s.setGen (Config.seedG (s.getX a0)))

/-- Service 41 (R290). -/
def serviceRandInt (s : State) : Result :=
  .next ((s.setGen (Config.nextG s.gen).2).setX (RandDest.reg s.cfg.randDest) (Config.nextG s.gen).1)

/-- Service 42 (R292). -/
def serviceRandIntRange (s : State) : Result :=
  if (s.getX a1).toInt < 0 then .next (s.takeFault ⟨.invalidArgument, none⟩)
  else
    .next ((s.setGen (rangeG s.gen (s.getX a1).toNat).2).setX (RandDest.reg s.cfg.randDest)
      (W (rangeG s.gen (s.getX a1).toNat).1))

/-! ### The instruction -/

def State.service (s : State) : Service → Result
  | .printInt => servicePrintInt s
  | .printFloat => servicePrintFloat s
  | .printDouble => servicePrintDouble s
  | .printString => servicePrintString s
  | .readInt => serviceReadInt s
  | .atoi => serviceAtoi s
  | .readString => serviceReadString s
  | .sbrk => serviceSbrk s
  | .exit => serviceExit s
  | .printChar => servicePrintChar s
  | .exit2 => serviceExit2 s
  | .memoryDump => serviceMemoryDump s
  | .registerDump => serviceRegisterDump s
  | .dumpFiles => serviceDumpFiles s
  | .printHex => servicePrintHex s
  | .printBin => servicePrintBin s
  | .printUint => servicePrintUint s
  | .seed => serviceSeed s
  | .randInt => serviceRandInt s
  | .randIntRange => serviceRandIntRange s

/-- `syscall` (R270): the service numbered `s($v0)`; an unknown number raises `InvalidArgument` (R291). -/
def execSyscall (s : State) : Result :=
  match serviceOf (s.getX v0).toInt with
  | some n => s.service n
  | none => .next (s.takeFault ⟨.invalidArgument, none⟩)

end Sys2Proof.Machine
end

