-- ==== Sys2Proof/Machine/Step.lean ====
section
/-! DEFINITION. One step of the loop (spec/70_reset_and_hazards.md R332): fetch and decode (Ops.lean), then the rule of
the instruction (`exec`). And the host's way of placing one word to run next. -/

namespace Sys2Proof.Machine

/-- One step. Atomic (R337): a fault of the spec is a next state with `run = faulted`. -/
def step (s : State) : Host.Outcome State Fault Refusal :=
  match s.fetch with
  | .stop r => .fault r
  | .done t => .next t
  | .refuse r => .refused r
  | .run i t => exec i t

/-- A slot list with one slot set; slots missing below it are the all-zero word. -/
def setSlot : List Slot → Nat → Slot → List Slot
  | [], 0, x => [x]
  | [], k + 1, x => .word 0 :: setSlot [] k x
  | _ :: l, 0, x => x :: l
  | y :: l, k + 1, x => y :: setSlot l k x

/-- Where `withFetchWord` places the word: at `pc` when a fetch there can succeed, else at the base of the text. -/
def State.fetchPoint (s : State) : Word :=
  if s.pc.toNat % 4 = 0 ∧ s.cfg.textBase ≤ s.pc.toNat then s.pc else BitVec.ofNat 32 s.cfg.textBase

/-- The loader's placing of one level-2 word where the next step fetches (notes/assumptions/6.md, 24.md). A run that has
ended is made ready again. -/
def State.withFetchWord (s : State) (nbits w : Nat) : State :=
  { s with
    text := setSlot s.text ((s.fetchPoint.toNat - s.cfg.textBase) / 4) (.word (BitVec.ofNat 32 (w % 2 ^ nbits)))
    pc := s.fetchPoint
    run := match s.run with
      | .running => .running
      | _ => .ready
    fault := none
    exitCode := none }

end Sys2Proof.Machine
end

