-- ==== Sys2Proof/Machine/Loader.lean ====
section
/-! DEFINITION. The host's side of the interface (spec/70_reset_and_hazards.md R330, R333, R340; 20_memory.md R54, R56;
10_state.md R28): constructing the core from a launch, the loader's memory operations, the label table, and reading and
writing registers between steps. No instruction reaches any of it. -/

namespace Sys2Proof.Machine

/-- One loader write (20_memory.md R52, R56): bytes from an address on, which must be a multiple of `align`. -/
structure Image where
  addr  : Nat
  align : Nat
  bytes : List Byte
deriving DecidableEq, Repr

/-- What the host constructs the core from (R330). `images` are the initial memory images, in the order they are
written: static data, dynamic memory, the text image. -/
structure Launch where
  cfg    : Cfg
  text   : List Slot
  /-- the label table (20_memory.md R54) -/
  labels : List (String × Word)
  images : List Image
  input  : List (List Byte)
  /-- `g0`, "a draw of the run" (47_syscall.md R289) -/
  gen    : Nat
  /-- the entries the host's file table has beside the three standard ones (47_syscall.md R285) -/
  files  : List Nat
deriving DecidableEq, Repr

/-- `getLabel` (20_memory.md R54): consulted by the loader, when it resolves targets (30_encoding.md R82). -/
def Launch.getLabel (l : Launch) (name : String) : Option Word := l.labels.lookup name

/-- One more loader write. -/
def Launch.add (l : Launch) (addr align : Nat) (bytes : List Byte) : Launch :=
  { l with images := l.images ++ [{ addr := addr, align := align, bytes := bytes }] }

/-- `MemWrite` of `n` bytes by the loader: aligned (20_memory.md R46), in the byte order of R44. -/
def Launch.addValue (l : Launch) (n v addr : Nat) : Launch := l.add addr n (split l.cfg.endian n v)

/-- `addByte(value, addr)` (20_memory.md R52). -/
def Launch.addByte (l : Launch) (v : Byte) (addr : Nat) : Launch := l.addValue 1 v.toNat addr

/-- `addHalf(value, addr)` (R52). -/
def Launch.addHalf (l : Launch) (v : BitVec 16) (addr : Nat) : Launch := l.addValue 2 v.toNat addr

/-- `addWord(value, addr)` (R52). -/
def Launch.addWord (l : Launch) (v : Word) (addr : Nat) : Launch := l.addValue 4 v.toNat addr

/-- `addFloat(value, addr)`, the value by its 32 bits (R52). -/
def Launch.addFloat (l : Launch) (v : Word) (addr : Nat) : Launch := l.addValue 4 v.toNat addr

/-- `addDouble(value, addr)`, the value by its 64 bits (R52). -/
def Launch.addDouble (l : Launch) (v : DWord) (addr : Nat) : Launch := l.addValue 8 v.toNat addr

/-- `addAscii(text, addr)`: raw bytes (20_memory.md R56). -/
def Launch.addAscii (l : Launch) (t : List Byte) (addr : Nat) : Launch := l.add addr 1 t

/-- `addAsciiz(text, addr)`: terminated with a zero byte (R56). -/
def Launch.addAsciiz (l : Launch) (t : List Byte) (addr : Nat) : Launch := l.addAscii (t ++ [0]) addr

/-- A loader write is "bounds-checked like any write" (R56), and alignment-checked as `MemWrite` is (R47); the loader
may write text bytes too (20_memory.md R45). R56 and R48 speak of the bytes touched and so leave open an image of no
bytes (`addAscii` of an empty text): its address must stand in a range, or be the end of one, here as well
(DESIGN CHOICE, notes/assumptions/19.md). What bytes an image may put over a level-2
text slot is `Launch.textImageAgrees`. -/
def Launch.imageAdmitted (l : Launch) (image : Image) : Bool :=
  decide (image.addr % image.align = 0)
    && (within l.cfg.textBase (l.cfg.textBase + 4 * l.text.length) image.addr image.bytes.length
      || Cfg.inStore l.cfg image.addr image.bytes.length)

/-- The boot obligation 2 (R333): a record is well formed (30_encoding.md R81); any word may stand in the text. -/
def Slot.wellFormed : Slot → Bool
  | .record i => i.wellFormed
  | .word _ => true

/-- The memory that the images give, later ones over earlier ones. -/
def Launch.memory (l : Launch) : Memory := l.images.foldl (fun m image => m.setAll image.addr image.bytes) []

/-- The byte an image puts at an address. -/
def Image.byteAt (image : Image) (a : Nat) : Option Byte :=
  if image.addr ≤ a then image.bytes[a - image.addr]? else none

/-- The byte the loader wrote last at an address. -/
def Launch.written (l : Launch) (a : Nat) : Option Byte :=
  l.images.foldl (fun b image => (image.byteAt a).or b) none

/-- The state a launch gives. -/
def Launch.ready (l : Launch) : State :=
  { State.initial l.cfg l.text l.memory l.input with
    gen := l.gen
    files := [.stdin, .stdout, .stderr] ++ l.files.map .other }

/-- The constraint on `text_image`: it "equals the level-2 encodings when the binary level is used" (00_scope.md R4,
20_memory.md R45). Where the loader wrote bytes over a level-2 slot, the last ones written are those of its word. -/
def Launch.textImageAgrees (l : Launch) : Bool :=
  (List.range (4 * l.text.length)).all fun k =>
    (l.written (l.cfg.textBase + k)).all fun b => (l.ready.textByte (l.cfg.textBase + k)).all (· == b)

/-- What R4 and R333 ask of a launch beside its records. -/
def Launch.wellFormed (l : Launch) : Bool :=
  l.cfg.wellFormed l.text.length && l.images.all l.imageAdmitted && l.textImageAgrees

/-- Construction (R330): the state `ready` of a well-formed launch; an ill-formed one "is refused, not given a meaning"
(00_scope.md R4). A launch with a loader write that is not admitted is refused as well: no run exists yet in which it
could raise a fault (DESIGN CHOICE, notes/assumptions/19.md). -/
def Launch.boot (l : Launch) : Except Refusal State :=
  if l.wellFormed = false then .error .illFormedLaunch
  else if l.text.all Slot.wellFormed = false then .error .illFormedRecord
  else .ok l.ready

/-! ### Host access to registers, between steps (10_state.md R28) -/

/-- The registers a host names: "any named register", of the closed list of R24. -/
inductive RegName where
  | x (r : Reg)
  | f (r : FReg)
  | hi
  | lo
  | pc
  | cc (k : CC)
deriving DecidableEq, Repr

/-- What a named register holds: a Boolean for a condition flag (R19), else a Word. -/
abbrev RegName.Value : RegName → Type
  | .x _ => Word
  | .f _ => Word
  | .hi => Word
  | .lo => Word
  | .pc => Word
  | .cc _ => Bool

/-- `get_register(name)`. -/
def State.getRegister (s : State) : (n : RegName) → n.Value
  | .x r => s.getX r
  | .f r => s.getF r
  | .hi => s.hi
  | .lo => s.lo
  | .pc => s.pc
  | .cc k => s.getCC k

/-- `set_register(name, value)`: "a host write of `$zero` is discarded". -/
def State.setRegister (s : State) : (n : RegName) → n.Value → State
  | .x r, v => s.setX r v
  | .f r, v => s.setF r v
  | .hi, v => { s with hi := v }
  | .lo, v => { s with lo := v }
  | .pc, v => s.setPc v
  | .cc k, b => s.setCC k b

/-- `get_register(name, wide=true)`: an even/odd pair as one double; none for an odd register. -/
def State.getWide (s : State) (r : FReg) : Option DWord := if evenReg r then some (s.getFD r) else none

/-- `set_register(name, value, wide=true)`. -/
def State.setWide (s : State) (r : FReg) (v : DWord) : Option State := if evenReg r then some (s.setFD r v) else none

end Sys2Proof.Machine
end

