-- ==== Sys2Proof/Safety.lean ====
section
/-! DEFINITION. What counts as a safe run, and the terms the claims use: the invariant, what two states have in common,
what an instruction may write, and the spec's own forms of a memory value, a string and a numeral. -/

namespace Sys2Proof.Machine

/-- No fault of the spec has been taken. -/
def State.safe (s : State) : Prop := s.run ≠ .faulted

/-- What every step keeps: the memory's canonical form, within the address space (20_memory.md R40); `heapPtr` a multiple
of 4 between `heap_base` and `initial_sp` (10_state.md R20); a fault record exactly in `faulted` (R23); an exit code
exactly in `halted` (47_syscall.md R281). -/
structure State.Inv (s : State) : Prop where
  memory    : Memory.wf s.mem = true
  space     : ∀ c ∈ s.mem, c.1 < 2 ^ 32
  heapAlign : s.heapPtr.toNat % 4 = 0
  heapLow   : s.cfg.heapBase.toNat ≤ s.heapPtr.toNat
  heapHigh  : s.heapPtr.toNat ≤ s.cfg.initialSp.toNat
  faulted   : s.run = .faulted ↔ s.fault.isSome
  halted    : s.run = .halted ↔ s.exitCode.isSome

/-! ### What two states have in common -/

/-- The parts of a state. `draws` is the model's own. -/
inductive Part where
  | x
  | f
  | hiLo
  | pc
  | flags
  | memory
  | heap
  | count
  | run
  | launch
  | out
  | input
  | gen
  | files
  | draws
deriving DecidableEq, Repr

/-- `t` has this part of `s`; memory is compared through the read of one byte. -/
def Part.same (s t : State) : Part → Prop
  | .x => ∀ r, t.getX r = s.getX r
  | .f => ∀ r, t.getF r = s.getF r
  | .hiLo => t.hi = s.hi ∧ t.lo = s.lo
  | .pc => t.pc = s.pc
  | .flags => ∀ k, t.getCC k = s.getCC k
  | .memory => ∀ a, t.byteAt a = s.byteAt a
  | .heap => t.heapPtr = s.heapPtr
  | .count => t.icount = s.icount
  | .run => t.run = s.run ∧ t.fault = s.fault ∧ t.exitCode = s.exitCode
  | .launch => t.cfg = s.cfg ∧ t.text = s.text
  | .out => t.out = s.out
  | .input => t.input = s.input
  | .gen => t.gen = s.gen
  | .files => t.files = s.files
  | .draws => t.draws = s.draws

/-- Every part but these is the same. -/
def OnlyChanges (ps : List Part) (s t : State) : Prop := ∀ p, p ∉ ps → p.same s t

/-- `x[r] <- v` and nothing else; for `r = 0` nothing at all (10_state.md R11). -/
def WritesX (s t : State) (r : Reg) (v : Word) : Prop :=
  (∀ q, t.getX q = if q = r ∧ q ≠ 0 then v else s.getX q) ∧ OnlyChanges [.x] s t

/-- `f[r] <- v` and nothing else (but the model's count of free values). -/
def WritesF (s t : State) (r : FReg) (v : Word) : Prop :=
  (∀ q, t.getF q = if q = r then v else s.getF q) ∧ OnlyChanges [.f, .draws] s t

/-- `fd[r] <- v`: bits 31:0 to `f[r]`, bits 63:32 to `f[r+1]`, and nothing else (10_state.md R15). -/
def WritesFD (s t : State) (r : FReg) (v : DWord) : Prop :=
  (∀ q, t.getF q = if q = r then v.extractLsb' 0 32 else if q = r + 1 then v.extractLsb' 32 32 else s.getF q)
    ∧ OnlyChanges [.f, .draws] s t

/-- `hi <- h`, `lo <- l` and nothing else. -/
def WritesHiLo (s t : State) (h l : Word) : Prop := t.hi = h ∧ t.lo = l ∧ OnlyChanges [.hiLo] s t

/-- `cc[k] <- b` and nothing else. -/
def WritesFlag (s t : State) (k : CC) (b : Bool) : Prop :=
  (∀ j, t.getCC j = if j = k then b else s.getCC j) ∧ OnlyChanges [.flags] s t

/-- `pc <- a` and nothing else. -/
def JumpsTo (s t : State) (a : Word) : Prop := t.pc = a ∧ OnlyChanges [.pc] s t

/-- The output grows by these events and nothing else changes. -/
def Outputs (s t : State) (es : List OutEvent) : Prop := t.out = s.out ++ es ∧ OnlyChanges [.out] s t

/-- Nothing changes. -/
def Unchanged (s t : State) : Prop := OnlyChanges [] s t

/-- The fault of the executing instruction (60_exceptions.md R300, R311, R315): its address is `pc - 4`. -/
def Raises (s t : State) (k : FaultKind) (bad : Option Word) : Prop :=
  t.run = .faulted ∧ t.fault = some { kind := k, addr := s.pc - 4, badAddress := bad, word := none } ∧ t.exitCode = s.exitCode
    ∧ OnlyChanges [.run] s t

/-- The instruction answers a next state, of which `P` holds. -/
def Completes (i : Instr) (s : State) (P : State → Prop) : Prop := ∃ t, exec i s = .next t ∧ P t

/-! ### The forms of the rules -/

/-- In the signed range of a Word. -/
def inWord (z : Int) : Prop := -2147483648 ≤ z ∧ z < 2147483648

/-- `x[rd] <- W(z)`, or `ArithmeticOverflow` when `z` is no signed Word. -/
def ChecksSigned (i : Instr) (s : State) (rd : Reg) (z : Int) : Prop :=
  (inWord z → Completes i s fun t => WritesX s t rd (W z))
    ∧ (¬ inWord z → Completes i s fun t => Raises s t .arithmeticOverflow none)

/-- `x[rd] <- v` when `0 <= z < bound`, else `InvalidImmediate`. -/
def ChecksLiteral (i : Instr) (s : State) (rd : Reg) (z bound : Int) (v : Word) : Prop :=
  (0 ≤ z ∧ z < bound → Completes i s fun t => WritesX s t rd v)
    ∧ (¬ (0 ≤ z ∧ z < bound) → Completes i s fun t => Raises s t .invalidImmediate none)

/-- The effective address (44_loadstore.md R200). -/
def addressOf (s : State) (base : Reg) (offset : Int) : Word := W ((s.getX base).toNat + offset)

/-- The value of the `n` bytes from `a` on, in the byte order of the configuration (20_memory.md R44). -/
def State.valueOf (s : State) (a n : Nat) : Nat :=
  match s.cfg.endian with
  | .little => ((List.range n).map fun k => (s.byteAt (a + k)).toNat * 256 ^ k).sum
  | .big => ((List.range n).map fun k => (s.byteAt (a + k)).toNat * 256 ^ (n - 1 - k)).sum

/-- Byte `k` in address order of a value of `n` bytes (20_memory.md R44). -/
def byteOf (e : Endian) (n v k : Nat) : Byte :=
  match e with
  | .little => BitVec.ofNat 8 (v / 256 ^ k)
  | .big => BitVec.ofNat 8 (v / 256 ^ (n - 1 - k))

/-- Exactly the `n` bytes from `a` on are replaced, by those of `v`. -/
def StoresAt (s t : State) (a n v : Nat) : Prop :=
  (∀ b, t.byteAt b = if a ≤ b ∧ b < a + n then byteOf s.cfg.endian n v (b - a) else s.byteAt b)
    ∧ OnlyChanges [.memory] s t

/-- An aligned access of `n` bytes at `ea` (20_memory.md R47): alignment first, then bounds, then `P`. -/
def Accesses (i : Instr) (s : State) (ea : Word) (n : Nat) (admitted : Bool) (P : State → Prop) : Prop :=
  (ea.toNat % n ≠ 0 → Completes i s fun t => Raises s t .misalignedAddress (some ea))
    ∧ (ea.toNat % n = 0 → admitted = false → Completes i s fun t => Raises s t .memoryOutOfBounds (some ea))
    ∧ (ea.toNat % n = 0 → admitted = true → Completes i s P)

/-- An aligned load. -/
def Loads (i : Instr) (s : State) (ea : Word) (n : Nat) (P : State → Nat → Prop) : Prop :=
  Accesses i s ea n (s.readAdmitted ea.toNat n) fun t => P t (s.valueOf ea.toNat n)

/-- An aligned store. -/
def StoresTo (i : Instr) (s : State) (ea : Word) (n v : Nat) : Prop :=
  Accesses i s ea n (s.writeAdmitted ea.toNat n) fun t => StoresAt s t ea.toNat n v

/-- Byte `j` of a register: `G0` is bits 7:0 (44_loadstore.md). -/
def regByte (v : Word) (j : Nat) : Byte := v.extractLsb' (8 * j) 8

/-- A partial-word load (44_loadstore.md R209, R210): `lo` and `n` are the bytes touched, `G j` is byte `j` of the
register after it. -/
def LoadsPart (i : Instr) (s : State) (rt : Reg) (lo n : Nat) (G : Nat → Byte) : Prop :=
  (s.readAdmitted lo n = true → Completes i s fun t => ∃ v, WritesX s t rt v ∧ ∀ j < 4, regByte v j = G j)
    ∧ (s.readAdmitted lo n = false → Completes i s fun t => ∃ b, Raises s t .memoryOutOfBounds (some b))

/-- A partial-word store (44_loadstore.md R211, R212): `M j` is byte `j` of the aligned word at `wa` after it. -/
def StoresPart (i : Instr) (s : State) (wa lo n : Nat) (M : Nat → Byte) : Prop :=
  (s.writeAdmitted lo n = true → Completes i s fun t =>
      (∀ a, t.byteAt a = if lo ≤ a ∧ a < lo + n then M (a - wa) else s.byteAt a) ∧ OnlyChanges [.memory] s t)
    ∧ (s.writeAdmitted lo n = false → Completes i s fun t => ∃ b, Raises s t .memoryOutOfBounds (some b))

/-- The step of a conditional branch (45_branch_jump.md R230). -/
def BranchesIf (i : Instr) (s : State) (c : Prop) (target : Word) : Prop :=
  (c → Completes i s fun t => JumpsTo s t target) ∧ (¬ c → Completes i s fun t => Unchanged s t)

/-- A conditional move. -/
def MovesIf (i : Instr) (s : State) (c : Prop) (rd rs : Reg) : Prop :=
  (c → Completes i s fun t => WritesX s t rd (s.getX rs)) ∧ (¬ c → Completes i s fun t => Unchanged s t)

/-! ### Floating point -/

/-- Some NaN of the format in `f[fd]` (43_float.md R161). -/
def WritesNaN (s t : State) (fd : FReg) : Prop := ∃ w : Word, single.datum w.toNat = .nan ∧ WritesF s t fd w

/-- Some NaN of the format in `fd[fd]`. -/
def WritesNaND (s t : State) (fd : FReg) : Prop := ∃ w : DWord, double.datum w.toNat = .nan ∧ WritesFD s t fd w

/-- The pattern of a result, or some NaN where it is none. -/
def PutsSingle (s t : State) (fd : FReg) : Option Nat → Prop
  | some b => WritesF s t fd (BitVec.ofNat 32 b)
  | none => WritesNaN s t fd

def PutsDouble (s t : State) (fd : FReg) : Option Nat → Prop
  | some b => WritesFD s t fd (BitVec.ofNat 64 b)
  | none => WritesNaND s t fd

/-- The datum of a single register. -/
def State.datumS (s : State) (r : FReg) : Datum := single.datum (s.getF r).toNat

/-- The datum of a register pair. -/
def State.datumD (s : State) (r : FReg) : Datum := double.datum (s.getFD r).toNat

/-- The places of the extended reals in their order (45_branch_jump.md R242): none for a NaN. -/
def Datum.place : Datum → Option (Int × Int)
  | .nan => none
  | .inf neg => some (if neg then -1 else 1, 0)
  | .fin neg m => some (0, if neg then -(m : Int) else m)

/-- A relation of two data that holds of no NaN. -/
def Ordered (r : Int × Int → Int × Int → Prop) (a b : Datum) : Prop :=
  ∃ p q, a.place = some p ∧ b.place = some q ∧ r p q

def placeLt (p q : Int × Int) : Prop := p.1 < q.1 ∨ (p.1 = q.1 ∧ p.2 < q.2)

/-- One flag gets the truth of `c` (45_branch_jump.md R243 to R248). -/
def Compares (i : Instr) (s : State) (k : CC) (c : Prop) : Prop :=
  (c → Completes i s fun t => WritesFlag s t k true) ∧ (¬ c → Completes i s fun t => WritesFlag s t k false)

/-- `n` is the integer next below `num / den`. -/
def IsFloor (num den n : Int) : Prop := n * den ≤ num ∧ num < (n + 1) * den

def IsCeil (num den n : Int) : Prop := (n - 1) * den < num ∧ num ≤ n * den

def IsTrunc (num den n : Int) : Prop := (0 ≤ num → IsFloor num den n) ∧ (num < 0 → IsCeil num den n)

/-- `n` is nearest to `num / den`, the even one of two. -/
def IsNearestEven (num den n : Int) : Prop :=
  2 * (num - n * den) ≤ den ∧ -den ≤ 2 * (num - n * den)
    ∧ (2 * (num - n * den) = den ∨ 2 * (num - n * den) = -den → n % 2 = 0)

/-- `toint32` (43_float.md R174) of a datum in units of `1 / den`, under a rounding. -/
def ToWord (den : Int) (IsRounded : Int → Int → Int → Prop) (d : Datum) (w : Word) : Prop :=
  match d with
  | .nan => w = 0x7FFFFFFF
  | .inf _ => w = 0x7FFFFFFF
  | .fin neg m =>
    ∃ n, IsRounded (if neg then -(m : Int) else m) den n
      ∧ w = if -2147483648 ≤ n ∧ n ≤ 2147483647 then W n else 0x7FFFFFFF

/-- What a finite datum of units `1 / den` is worth. -/
def unitValue (den : Nat) (neg : Bool) (m : Nat) : ℚ := (if neg then -(m : ℚ) else m) / den

/-- The pattern `w` of the format is the real `r` rounded once, to nearest, ties to even (43_float.md R160): no finite
pattern is nearer, of two equally near the even one is taken, and from half a step past the largest finite number on
the result is the infinity of the sign of `r`. -/
def IsRounded (k : Fmt) (w : Nat) (r : ℚ) : Prop :=
  match k.datum w with
  | .nan => False
  | .inf neg => (2 ^ (k.p + 1) - 1) * 2 ^ (2 ^ (k.e - 1) - k.p - 1) ≤ (if neg then -r else r)
  | .fin neg m =>
    |r| < (2 ^ (k.p + 1) - 1) * 2 ^ (2 ^ (k.e - 1) - k.p - 1)
      ∧ ∀ v neg' m', k.datum v = .fin neg' m' →
          |unitValue (2 ^ k.unitExp) neg m - r| ≤ |unitValue (2 ^ k.unitExp) neg' m' - r|
            ∧ (|unitValue (2 ^ k.unitExp) neg m - r| = |unitValue (2 ^ k.unitExp) neg' m' - r| →
                unitValue (2 ^ k.unitExp) neg m = unitValue (2 ^ k.unitExp) neg' m' ∨ w % 2 = 0)

/-! ### Strings and numerals -/

/-- The bytes of `t` stand at `addr, addr + 1, ...`, readable, none of them the terminator (47_syscall.md R276). -/
def HoldsBytes (s : State) (addr : Word) (t : List Byte) : Prop :=
  t.length < 2 ^ 32 ∧ ∀ k (h : k < t.length),
    s.readAdmitted (addr + BitVec.ofNat 32 k).toNat 1 = true ∧ s.byteAt (addr + BitVec.ofNat 32 k).toNat = t[k] ∧ t[k] ≠ 0

/-- And the terminator after them. -/
def HoldsString (s : State) (addr : Word) (t : List Byte) : Prop :=
  HoldsBytes s addr t ∧ s.readAdmitted (addr + BitVec.ofNat 32 t.length).toNat 1 = true
    ∧ s.byteAt (addr + BitVec.ofNat 32 t.length).toNat = 0

/-- The allowed set of 20_memory.md R55. -/
def Allowed (b : Byte) : Prop := b = 0x09 ∨ b = 0x0A ∨ (0x20 ≤ b.toNat ∧ b.toNat ≤ 0x7E)

/-- `t` matches `-? [0-9]+` and denotes `z` (47_syscall.md R277, R278). -/
def Denotes (t : List Byte) (z : Int) : Prop :=
  ∃ neg : Bool, ∃ ds : List Byte, ds ≠ [] ∧ (∀ b ∈ ds, 0x30 ≤ b.toNat ∧ b.toNat ≤ 0x39)
    ∧ t = (if neg then [0x2D] else []) ++ ds
    ∧ z = (if neg then -1 else 1) * (ds.foldl (fun acc b => 10 * acc + ((b.toNat : Int) - 0x30)) 0)

/-- `t` is the numeral of `z` without leading zeros (47_syscall.md R273). -/
def IsDecimal (t : List Byte) (z : Int) : Prop :=
  Denotes t z ∧ (t.head? = some 0x2D ↔ z < 0) ∧ (t.head? = some 0x30 → t = [0x30]) ∧ t.take 2 ≠ [0x2D, 0x30]

/-- The bytes of a text of ASCII characters. -/
def asciiBytes (t : String) : List Byte := t.toList.map fun c => BitVec.ofNat 8 c.toNat

/-- What "write `t`" appends. -/
def textEvents (t : List Byte) : List OutEvent := if t = [] then [] else [.bytes t]

/-! ### What an instruction may write -/

/-- The one integer register the service of `$v0` writes (47_syscall.md R271). -/
def State.serviceDest (s : State) : List Reg :=
  if (s.getX 2).toInt = 5 ∨ (s.getX 2).toInt = 6 ∨ (s.getX 2).toInt = 9 then [2]
  else if (s.getX 2).toInt = 41 ∨ (s.getX 2).toInt = 42 then [RandDest.reg s.cfg.randDest]
  else []

end Sys2Proof.Machine

namespace Sys2Proof

open Machine

/-- The integer registers an instruction may write, `x[0]` set aside. -/
def Instr.intDests (i : Instr) (s : State) : List Reg :=
  match i with
  | .add rd _ _ | .addu rd _ _ | .sub rd _ _ | .subu rd _ _ | .slt rd _ _ | .sltu rd _ _ => [rd]
  | .addi rt _ _ | .addiu rt _ _ | .slti rt _ _ | .sltiu rt _ _ | .lui rt _ => [rt]
  | .and rd _ _ | .or rd _ _ | .nor rd _ _ | .xor rd _ _ => [rd]
  | .andi rt _ _ | .ori rt _ _ | .xori rt _ _ => [rt]
  | .sll rd _ _ | .srl rd _ _ | .sra rd _ _ | .sllv rd _ _ | .srlv rd _ _ | .srav rd _ _ => [rd]
  | .mul rd _ _ | .mfhi rd | .mflo rd => [rd]
  | .mfc1 rt _ => [rt]
  | .lb rt _ _ | .lbu rt _ _ | .lh rt _ _ | .lhu rt _ _ | .lw rt _ _ | .lwl rt _ _ | .lwr rt _ _ => [rt]
  | .jal _ => [31]
  | .jalr rd _ => [rd]
  | .movt rd _ _ | .movf rd _ _ | .movn rd _ _ | .movz rd _ _ | .clz rd _ | .clo rd _ => [rd]
  | .syscall => s.serviceDest
  | _ => []

/-- The floating-point registers an instruction may write. -/
def Instr.floatDests : Instr → List FReg
  | .addS fd _ _ | .subS fd _ _ | .mulS fd _ _ | .divS fd _ _ | .sqrtS fd _ => [fd]
  | .addD fd _ _ | .subD fd _ _ | .mulD fd _ _ | .divD fd _ _ | .sqrtD fd _ => [fd, fd + 1]
  | .roundWS fd _ | .truncWS fd _ | .ceilWS fd _ | .floorWS fd _ => [fd]
  | .roundWD fd _ | .truncWD fd _ | .ceilWD fd _ | .floorWD fd _ => [fd]
  | .cvtSD fd _ | .cvtSW fd _ | .cvtWS fd _ | .cvtWD fd _ => [fd]
  | .cvtDS fd _ | .cvtDW fd _ => [fd, fd + 1]
  | .mtc1 _ fs => [fs]
  | .lwc1 ft _ _ => [ft]
  | .ldc1 ft _ _ => [ft, ft + 1]
  | _ => []

/-- "They are written only by" these (10_state.md R17). -/
def Instr.writesHiLo : Instr → Bool
  | .mult _ _ | .multu _ _ | .div _ _ | .divu _ _ | .madd _ _ | .maddu _ _ | .msub _ _ | .msubu _ _ => true
  | _ => false

/-- The one flag a compare names (10_state.md R19). -/
def Instr.flagDest : Instr → Option CC
  | .cEqS k _ _ | .cLtS k _ _ | .cLeS k _ _ | .cEqD k _ _ | .cLtD k _ _ | .cLeD k _ _ => some k
  | _ => none

/-- Branches and jumps: all that may write `pc` (10_state.md R18). -/
def Instr.transfers : Instr → Bool
  | .beq _ _ _ | .bne _ _ _ | .blez _ _ | .bgtz _ _ | .bltz _ _ | .bgez _ _ | .j _ | .jal _ | .jr _ | .jalr _ _ => true
  | .bc1t _ _ | .bc1f _ _ => true
  | _ => false

/-- The byte `a` lies in the part of the aligned word at `wa` that a partial-word store at `wa + k` writes: on one side
of `ea`, by the byte order (44_loadstore.md R211, R212). -/
def inPart (below : Bool) (ea : Word) (a : Nat) : Prop :=
  a / 4 = ea.toNat / 4 ∧ (if below then a ≤ ea.toNat else ea.toNat ≤ a)

/-- The byte `a` is one that the instruction stores to. -/
def Instr.storesTo (i : Instr) (s : State) (a : Nat) : Prop :=
  match i with
  | .sb _ offset base => a = (addressOf s base offset).toNat
  | .sh _ offset base => (addressOf s base offset).toNat ≤ a ∧ a < (addressOf s base offset).toNat + 2
  | .sw _ offset base => (addressOf s base offset).toNat ≤ a ∧ a < (addressOf s base offset).toNat + 4
  | .swc1 _ offset base => (addressOf s base offset).toNat ≤ a ∧ a < (addressOf s base offset).toNat + 4
  | .sdc1 _ offset base => (addressOf s base offset).toNat ≤ a ∧ a < (addressOf s base offset).toNat + 8
  | .swl _ offset base => inPart (s.cfg.endian == .little) (addressOf s base offset) a
  | .swr _ offset base => inPart (s.cfg.endian == .big) (addressOf s base offset) a
  | .syscall =>
    (s.getX 2).toInt = 8 ∧ ∃ l ls, s.input = l :: ls ∧ ∃ k ≤ min l.length ((s.getX 5).toInt - 1).toNat,
      a = (s.getX 4 + BitVec.ofNat 32 k).toNat
  | _ => False

end Sys2Proof
end

