-- ==== Sys2Proof/Certificates/Slice0/Obligations.lean ====
section
/-! DEFINITION. The statements for the provers. Each says what the docstring says, of every state; the terms are those
of Safety.lean. -/

section

open Sys2Proof Sys2Proof.Machine

/-- O1. For every launch that boots: pc is initial_pc, x[0] reads 0 and every other integer, floating, hi and lo
register holds its configured value, all flags are false, memory is the loaded images, heapPtr is heap_base, icount
is 0, run is Ready and the fault record is empty. For $sp the configured value is reg_init($sp), as R27 says; where
a launch makes that other than initial_sp, R4, R12 and R330 give initial_sp, and the clause is the model's choice
(DESIGN CHOICE, log 32). (R4, R12, R27, R330) -/
def Obligations.ALaunchStartsAtItsConfiguredValues : Prop :=
  ∀ (l : Launch) (s : State), l.boot = .ok s →
    s.pc = l.cfg.initialPc
      ∧ (∀ r : Reg, s.getX r = if r = 0 then 0 else l.cfg.regInit.x[r])
      ∧ (∀ r : FReg, s.getF r = l.cfg.regInit.f[r])
      ∧ s.hi = l.cfg.regInit.hi ∧ s.lo = l.cfg.regInit.lo
      ∧ (∀ k, s.getCC k = false)
      ∧ s.mem = l.memory ∧ s.heapPtr = l.cfg.heapBase ∧ s.icount = 0 ∧ s.run = .ready ∧ s.fault = none
      ∧ s.cfg = l.cfg ∧ s.text = l.text

/-- O2. The model's choice of launch (logs 3, 4, 5, 6, 10), on which no rule rests: after reset pc is 0x00400000,
$sp is 0x7FFFEFFC, every other register is 0, every flag false, every memory byte reads 0, no program is loaded,
heapPtr is 0x10040000, icount is 0 and run is Ready. (R27, R330, 95_test_vectors.md) -/
def Obligations.ResetHoldsTheExampleConfiguration : Prop :=
  State.reset.pc = 0x00400000
    ∧ (∀ r : Reg, State.reset.getX r = if r = 29 then 0x7FFFEFFC else 0)
    ∧ (∀ r : FReg, State.reset.getF r = 0)
    ∧ State.reset.hi = 0 ∧ State.reset.lo = 0
    ∧ (∀ k, State.reset.getCC k = false)
    ∧ (∀ a, State.reset.byteAt a = 0)
    ∧ State.reset.text = [] ∧ State.reset.heapPtr = 0x10040000 ∧ State.reset.icount = 0
    ∧ State.reset.run = .ready ∧ State.reset.fault = none

/-- O3. State.reset satisfies State.Inv: canonical memory, heapPtr aligned and between heap_base and initial_sp, a
fault record exactly in Faulted, an exit code exactly in Halted. (R20, R22, R23, R27) -/
def Obligations.ResetSatisfiesTheInvariant : Prop :=
  State.reset.Inv

/-- O4. For every state with the invariant (canonical memory inside the address space, heapPtr a multiple of 4 in
[heap_base, initial_sp], a fault record exactly in Faulted, an exit code exactly in Halted), every next state of
step has it. (R20, R22, R23, R40, R49, R53, R281, R315) -/
def Obligations.EveryStepKeepsTheInvariant : Prop :=
  ∀ s t : State, s.Inv → step s = .next t → t.Inv

/-- O5. Whatever configuration, text and memory images a launch has, if it is accepted then its first state has
canonical memory inside the address space and the other clauses of State.Inv. (R4, R20, R27, R42, R330, R333) -/
def Obligations.ALaunchSatisfiesTheInvariant : Prop :=
  ∀ (l : Launch) (s : State), l.boot = .ok s → s.Inv

/-- O6. At every address and for every well-formed record whose operands are in the encodable ranges, the encoder
gives a word and the decoder reads from it exactly that record, every operand included. (R81, R83, R86, R87, R88,
R89) -/
def Obligations.DecodeOfEncodeIsTheInstruction : Prop :=
  ∀ (a : Word) (i : Instr), i.wellFormed = true → i.encodable a = true →
    ∃ w, encode a i = some w ∧ decode a w = .ok i

/-- O7. If a word decodes then the record is well formed and encodable, the word fits the record's row of the opcode
table and no other row; and a word has no row in the decoder exactly when it fits none of the 102 rows. (R81, R86,
R88, R89, R90) -/
def Obligations.ADecodedWordFitsExactlyItsRow : Prop :=
  (∀ (a w : Word) (i : Instr), decode a w = .ok i →
      i.wellFormed = true ∧ i.encodable a = true ∧ ∀ r ∈ opcodeTable, r.fits w = true ↔ r = i.row)
    ∧ ∀ a w : Word, decode a w = .error .noRow ↔ ∀ r ∈ opcodeTable, r.fits w = false

/-- O8. Every word of the vectors V240, V253 and V260 to V283 decodes, at address 0x00400010, to the instruction the
spec gives, or to none where the spec calls it reserved: three because a double names an odd register, the others
because they fit no row. (R83, R86, R87, R88, R90, 95_test_vectors.md) -/
def Obligations.DecodesTheWordsOfTheSpecsVectors : Prop :=
  decode 0x00400010 0x11090003 = .ok (.beq 8 9 0x00400020)
    ∧ decode 0x00400010 0x0C100040 = .ok (.jal 0x00400100)
    ∧ decode 0x00400010 0x00000000 = .ok (.sll 0 0 0)
    ∧ decode 0x00400010 0x00000040 = .ok (.sll 0 0 1)
    ∧ decode 0x00400010 0x0000000C = .ok .syscall
    ∧ decode 0x00400010 0x03FFFFCC = .ok .syscall
    ∧ decode 0x00400010 0x01095020 = .ok (.add 10 8 9)
    ∧ decode 0x00400010 0x0109001A = .ok (.div 8 9)
    ∧ decode 0x00400010 0x3C081001 = .ok (.lui 8 0x1001)
    ∧ decode 0x00400010 0x46201000 = .ok (.addD 0 2 0)
    ∧ decode 0x00400010 0xD5020000 = .ok (.ldc1 2 0 8)
    ∧ decode 0x00400010 0x46800821 = .ok (.cvtDW 0 1)
    ∧ decode 0x00400010 0x03E00008 = .ok (.jr 31)
    ∧ decode 0x00400010 0x71095020 = .ok (.clz 10 8)
    ∧ decode 0x00400010 0x00050001 = .ok (.movt 0 0 1)
    ∧ decode 0x00400010 0x451D0003 = .ok (.bc1t 7 0x00400020)
    ∧ decode 0x00400010 0x4600173C = .ok (.cLtS 7 2 0)
    ∧ decode 0x00400010 0x44090800 = .ok (.mfc1 9 1)
    ∧ decode 0x00400010 0x44890800 = .ok (.mtc1 9 1)
    ∧ decode 0x00400010 0x2408FFF9 = .ok (.addiu 8 0 (-7))
    ∧ decode 0x00400010 0x3508FFF9 = .ok (.ori 8 8 0xFFF9)
    ∧ decode 0x00400010 0x46201040 = .error .illFormed
    ∧ decode 0x00400010 0xD5030000 = .error .illFormed
    ∧ decode 0x00400010 0x46800061 = .error .illFormed
    ∧ decode 0x00400010 0x01095060 = .error .noRow
    ∧ decode 0x00400010 0x0109501A = .error .noRow
    ∧ decode 0x00400010 0x3C281001 = .error .noRow
    ∧ decode 0x00400010 0x0000000D = .error .noRow
    ∧ decode 0x00400010 0x0000000F = .error .noRow
    ∧ decode 0x00400010 0x00000011 = .error .noRow
    ∧ decode 0x00400010 0x00000013 = .error .noRow
    ∧ decode 0x00400010 0x42000018 = .error .noRow
    ∧ decode 0x00400010 0x04110003 = .error .noRow
    ∧ decode 0x00400010 0x04100003 = .error .noRow
    ∧ decode 0x00400010 0x46000005 = .error .noRow
    ∧ decode 0x00400010 0x46000006 = .error .noRow
    ∧ decode 0x00400010 0x46000007 = .error .noRow
    ∧ decode 0x00400010 0x46A00020 = .error .noRow
    ∧ decode 0x00400010 0x03E00408 = .error .noRow
    ∧ decode 0x00400010 0x7109001C = .error .noRow
    ∧ decode 0x00400010 0x00020001 = .error .noRow
    ∧ decode 0x00400010 0x45020003 = .error .noRow
    ∧ decode 0x00400010 0x46001030 = .error .noRow
    ∧ decode 0x00400010 0x44090801 = .error .noRow
    ∧ decode 0x00400010 0xFFFFFFFF = .error .noRow

/-- O9. In Ready or Running, when pc is a multiple of 4 inside the text and the slot there holds a well-formed
record, or a word that decodes, step is the meaning of that instruction at the state with run = Running, pc advanced
by 4 and icount incremented. (R18, R51, R331, R332) -/
def Obligations.AStepRunsTheDecodedInstruction : Prop :=
  ∀ (s : State) (slot : Slot) (i : Instr), s.run = .ready ∨ s.run = .running →
    s.pc.toNat % 4 = 0 → s.cfg.textBase ≤ s.pc.toNat →
    s.text[(s.pc.toNat - s.cfg.textBase) / 4]? = some slot →
    (slot = .record i ∧ i.wellFormed = true ∨ ∃ w, slot = .word w ∧ decode s.pc w = .ok i) →
    step s = exec i { s with run := .running, pc := s.pc + 4, icount := s.icount + 1 }

/-- O10. In Ready or Running: pc not a multiple of 4 is a MisalignedAddress fault, else pc outside [text_base,
text_end) a MemoryOutOfBounds fault, each with addr = bad_address = pc and only run and fault changed; a slot whose
word decodes to nothing is a ReservedInstruction fault with the word and that address, with pc + 4 and icount + 1.
(R51, R90, R309, R311, R314, R315, R332) -/
def Obligations.FetchFaultsAndReservedWords : Prop :=
  ∀ s : State, s.run = .ready ∨ s.run = .running →
    (s.pc.toNat % 4 ≠ 0 → ∃ t, step s = .next t ∧ t.run = .faulted
        ∧ t.fault = some ⟨.misalignedAddress, s.pc, some s.pc, none⟩ ∧ t.exitCode = s.exitCode ∧ OnlyChanges [.run] s t)
      ∧ (s.pc.toNat % 4 = 0 → s.pc.toNat < s.cfg.textBase ∨ s.cfg.textBase + 4 * s.text.length ≤ s.pc.toNat →
        ∃ t, step s = .next t ∧ t.run = .faulted
          ∧ t.fault = some ⟨.memoryOutOfBounds, s.pc, some s.pc, none⟩ ∧ t.exitCode = s.exitCode ∧ OnlyChanges [.run] s t)
      ∧ ∀ w e, s.pc.toNat % 4 = 0 → s.cfg.textBase ≤ s.pc.toNat →
        s.text[(s.pc.toNat - s.cfg.textBase) / 4]? = some (.word w) → decode s.pc w = .error e →
        ∃ t, step s = .next t ∧ t.run = .faulted ∧ t.fault = some ⟨.reservedInstruction, s.pc, none, some w⟩
          ∧ t.exitCode = s.exitCode ∧ t.pc = s.pc + 4 ∧ t.icount = s.icount + 1
          ∧ OnlyChanges [.run, .pc, .count] s t

/-- O11. A run that has halted or faulted has no next state (how the model shows it, a stop by name, is log 2).
(R22, R317, R318) -/
def Obligations.HaltedAndFaultedTakeNoStep : Prop :=
  ∀ s : State, s.run = .halted ∨ s.run = .faulted → step s = .fault .runEnded

/-- O12. Whenever any instruction takes a running state to Faulted, the record has the address pc - 4 of the
instruction and every register, flag, hi, lo, pc, icount, memory byte, heapPtr, output and launch parameter is as
before; input is as before or one line shorter. (R300, R301, R302, R303, R304, R305, R306, R307, R308, R314, R315)
-/
def Obligations.FaultsArePrecise : Prop :=
  ∀ (i : Instr) (s t : State), exec i s = .next t → s.run ≠ .faulted → t.run = .faulted →
    (∃ k b, t.fault = some ⟨k, s.pc - 4, b, none⟩) ∧ t.exitCode = s.exitCode ∧ OnlyChanges [.run, .input] s t
      ∧ (t.input = s.input ∨ i = .syscall ∧ ∃ line, s.input = line :: t.input)

/-- O13. No instruction changes icount and only branches and jumps change pc; a step that does not stop either
increments icount by one, or is a fetch fault that leaves pc and icount. (R18, R21, R230, R315, R319) -/
def Obligations.OnlyTransfersWritePcAndEachFetchCountsOnce : Prop :=
  (∀ (i : Instr) (s t : State), exec i s = .next t →
      t.icount = s.icount ∧ (i.transfers = false → t.pc = s.pc))
    ∧ ∀ s t : State, step s = .next t →
      t.icount = s.icount + 1 ∨ (t.icount = s.icount ∧ t.pc = s.pc ∧ t.run = .faulted)

/-- O14. For every instruction and state: unless it is one of mult multu div divu madd maddu msub msubu, hi and lo
are unchanged; and every condition flag but the one a floating compare names is unchanged. (R17, R19, R24) -/
def Obligations.HiLoAndFlagsHaveTheirOnlyWriters : Prop :=
  ∀ (i : Instr) (s t : State), exec i s = .next t →
    (i.writesHiLo = false → t.hi = s.hi ∧ t.lo = s.lo)
      ∧ ∀ k : CC, i.flagDest ≠ some k → t.getCC k = s.getCC k

/-- O15. For every instruction that gives a next state, every integer register that is not its destination (rd or rt
of the forms that write one; $ra for jal; $v0 for services 5, 6 and 9; RAND_DEST for services 41 and 42) is
unchanged; $zero reads 0 after it. (R10, R11, R12, R200, R241, R271, R300) -/
def Obligations.OnlyNamedIntegerRegistersChange : Prop :=
  ∀ (i : Instr) (s t : State), exec i s = .next t →
    (∀ r : Reg, r ∉ i.intDests s → t.getX r = s.getX r) ∧ t.getX 0 = 0

/-- O16. For every instruction that gives a next state, every floating-point register that is not its destination
(one register, or the even/odd pair of a double result) is unchanged. (R13, R15, R163, R213, R215) -/
def Obligations.OnlyNamedFloatRegistersChange : Prop :=
  ∀ (i : Instr) (s t : State), exec i s = .next t →
    ∀ r : FReg, r ∉ i.floatDests → t.getF r = s.getF r

/-- O17. For every instruction that gives a next state, every byte is unchanged except: the 1, 2, 4 or 8 bytes from
the effective address of sb, sh, sw, swc1, sdc1; the bytes of the aligned word on the written side of the effective
address of swl, swr; the bytes service 8 stores from $a0. (R49, R50, R59, R206, R207, R208, R211, R212, R214, R216,
R280) -/
def Obligations.MemoryChangesOnlyWhereStored : Prop :=
  ∀ (i : Instr) (s t : State), exec i s = .next t →
    ∀ a : Nat, ¬ i.storesTo s a → t.byteAt a = s.byteAt a

/-- O18. For every instruction that gives a next state, the configuration, the instruction store and the file table
are unchanged; heapPtr changes only by a syscall with $v0 = 9, the generator state only with $v0 in 40, 41, 42.
(R20, R25, R26, R61, R271, R285) -/
def Obligations.LaunchParametersHeapAndHostStateHaveTheirOnlyWriters : Prop :=
  ∀ (i : Instr) (s t : State), exec i s = .next t →
    t.cfg = s.cfg ∧ t.text = s.text ∧ t.files = s.files
      ∧ (t.heapPtr ≠ s.heapPtr → i = .syscall ∧ (s.getX 2).toInt = 9)
      ∧ (t.gen ≠ s.gen → i = .syscall ∧ ((s.getX 2).toInt = 40 ∨ (s.getX 2).toInt = 41 ∨ (s.getX 2).toInt = 42))

/-- O19. For every instruction that gives a next state the output is the old output with events appended and the
input is the old input or lacks its first line; both are unchanged unless the instruction is syscall, and a syscall
that does both does not exist. (R26, R271, R272, R276, R300) -/
def Obligations.TheConsoleIsReachedOnlyBySyscall : Prop :=
  ∀ (i : Instr) (s t : State), exec i s = .next t →
    (i ≠ .syscall → t.out = s.out ∧ t.input = s.input)
      ∧ ((∃ es, t.out = s.out ++ es) ∧ t.input = s.input ∨ t.out = s.out ∧ ∃ line, s.input = line :: t.input)

/-- O20. A read of n > 0 bytes is admitted exactly when it ends by 2^32 and all of its bytes lie in the text, or all
in the data range, or all in [heap_base, stack_top); a write likewise without the text. Under a well-formed
configuration no access with a byte at or above mmio_base is admitted, and no write with a byte in the text. (R42,
R43, R48, R62, R63) -/
def Obligations.AdmissionIsTheSegmentRule : Prop :=
  ∀ (s : State) (a n : Nat), 0 < n →
    (s.readAdmitted a n = true ↔ a + n ≤ 2 ^ 32
        ∧ ((∀ b, a ≤ b → b < a + n → s.cfg.textBase ≤ b ∧ b < s.cfg.textBase + 4 * s.text.length)
          ∨ (∀ b, a ≤ b → b < a + n → s.cfg.dataMin ≤ b ∧ b < s.cfg.dataMax)
          ∨ (∀ b, a ≤ b → b < a + n → s.cfg.heapBase.toNat ≤ b ∧ b < s.cfg.stackTop)))
      ∧ (s.writeAdmitted a n = true ↔ a + n ≤ 2 ^ 32
        ∧ ((∀ b, a ≤ b → b < a + n → s.cfg.dataMin ≤ b ∧ b < s.cfg.dataMax)
          ∨ (∀ b, a ≤ b → b < a + n → s.cfg.heapBase.toNat ≤ b ∧ b < s.cfg.stackTop)))
      ∧ (s.cfg.wellFormed s.text.length = true →
        (s.cfg.mmioBase < a + n → s.readAdmitted a n = false ∧ s.writeAdmitted a n = false)
          ∧ ∀ b, a ≤ b → b < a + n → s.cfg.textBase ≤ b → b < s.cfg.textBase + 4 * s.text.length →
            s.writeAdmitted a n = false)

/-- O21. Under a well-formed configuration the four bytes at the address of a level-2 slot have the value of its
word in the configured byte order, and across every step every byte of the text range and the instruction store stay
as they are. In a state that no launch gives, memory may list other bytes under such a slot; that the word wins over
them is the model's choice (DESIGN CHOICE, log 7): a launch that lays other bytes there is refused (R4). (R25, R41,
R43, R45, R61) -/
def Obligations.TextBytesAreTheWordsAndNeverChange : Prop :=
  ∀ s : State, s.cfg.wellFormed s.text.length = true →
    (∀ (i : Nat) (w : Word), s.text[i]? = some (.word w) → s.valueOf (s.cfg.textBase + 4 * i) 4 = w.toNat)
      ∧ ∀ t, step s = .next t → t.text = s.text
        ∧ ∀ a, s.cfg.textBase ≤ a → a < s.cfg.textBase + 4 * s.text.length → t.byteAt a = s.byteAt a

/-- O22. After sb, sh, sw, swc1 or sdc1 that does not fault, the unsigned load of the same width at the same address
completes and gives the low byte, low half, Word, 32 raw bits or 64 raw bits that were stored, in either byte order,
NaN patterns included. (R14, R49, R58, R59, R206, R207, R208, R214, R216) -/
def Obligations.ALoadReturnsTheLatestStore : Prop :=
  ∀ (s t : State) (rt rd base : Reg) (ft fd : FReg) (offset : Int), s.run ≠ .faulted → t.run ≠ .faulted →
    (exec (.sb rt offset base) s = .next t → Completes (.lbu rd offset base) t fun u =>
        WritesX t u rd (BitVec.ofNat 32 ((s.getX rt).toNat % 256)))
      ∧ (exec (.sh rt offset base) s = .next t → Completes (.lhu rd offset base) t fun u =>
        WritesX t u rd (BitVec.ofNat 32 ((s.getX rt).toNat % 65536)))
      ∧ (exec (.sw rt offset base) s = .next t → Completes (.lw rd offset base) t fun u =>
        WritesX t u rd (s.getX rt))
      ∧ (exec (.swc1 ft offset base) s = .next t → Completes (.lwc1 fd offset base) t fun u =>
        WritesF t u fd (s.getF ft))
      ∧ (exec (.sdc1 ft offset base) s = .next t → Completes (.ldc1 fd offset base) t fun u =>
        WritesFD t u fd (s.getFD ft))

/-- O23. In little-endian order, when rt is not base and the aligned words that hold the four bytes from the
effective address are readable, lwr rt, n(base) followed by lwl rt, n+3(base) completes and leaves in rt the value
of those four bytes, nothing else changed. (R209, R210, R44, R50) -/
def Obligations.TheLwrLwlPairLoadsAnUnalignedWord : Prop :=
  ∀ (s : State) (rt base : Reg) (n : Int), s.cfg.endian = .little → rt ≠ base →
    (∀ k, k = (addressOf s base n).toNat / 4 ∨ k = ((addressOf s base n).toNat + 3) / 4 →
      s.readAdmitted (4 * k) 4 = true) →
    Completes (.lwr rt n base) s fun t => Completes (.lwl rt (n + 3) base) t fun u =>
      WritesX s u rt (BitVec.ofNat 32 (s.valueOf (addressOf s base n).toNat 4))

/-- O24. For all registers and states, rd = $zero included: the true sum or difference of the signed operands is
written when it lies in [-2^31, 2^31) and nothing else changes; otherwise the instruction raises ArithmeticOverflow
and writes nothing. (R100, R102, R104) -/
def Obligations.AddSubAddiCheckTheSignedRange : Prop :=
  ∀ (s : State) (rd rs rt : Reg) (imm : Int),
    ChecksSigned (.add rd rs rt) s rd ((s.getX rs).toInt + (s.getX rt).toInt)
      ∧ ChecksSigned (.sub rd rs rt) s rd ((s.getX rs).toInt - (s.getX rt).toInt)
      ∧ ChecksSigned (.addi rt rs imm) s rt ((s.getX rs).toInt + imm)

/-- O25. For all registers, immediates and states: addu, subu and addiu complete, write W of the sum or difference
and change nothing else. (R101, R103, R105) -/
def Obligations.AddSubUnsignedWrap : Prop :=
  ∀ (s : State) (rd rs rt : Reg) (imm : Int),
    (Completes (.addu rd rs rt) s fun t => WritesX s t rd (W ((s.getX rs).toNat + (s.getX rt).toNat)))
      ∧ (Completes (.subu rd rs rt) s fun t => WritesX s t rd (W ((s.getX rs).toNat - (s.getX rt).toNat)))
      ∧ (Completes (.addiu rt rs imm) s fun t => WritesX s t rt (W ((s.getX rs).toNat + imm)))

/-- O26. For all registers, immediates and states: the four compares complete, write 1 when the comparison holds and
0 when not (the immediate of sltiu is first made a Word), and change nothing else. (R106, R107, R108, R109) -/
def Obligations.SetOnLessThanWritesOneOrZero : Prop :=
  ∀ (s : State) (rd rs rt : Reg) (imm : Int),
    (Completes (.slt rd rs rt) s fun t =>
        WritesX s t rd (if (s.getX rs).toInt < (s.getX rt).toInt then 1 else 0))
      ∧ (Completes (.sltu rd rs rt) s fun t =>
        WritesX s t rd (if (s.getX rs).toNat < (s.getX rt).toNat then 1 else 0))
      ∧ (Completes (.slti rt rs imm) s fun t => WritesX s t rt (if (s.getX rs).toInt < imm then 1 else 0))
      ∧ (Completes (.sltiu rt rs imm) s fun t =>
        WritesX s t rt (if (s.getX rs).toNat < (W imm).toNat then 1 else 0))

/-- O27. For all registers, integers and states: with the immediate in [0, 65536) the result is written and nothing
else changes; otherwise InvalidImmediate is raised and nothing is written. (R110, R124, R125, R126) -/
def Obligations.UpperAndLogicalImmediatesCheckSixteenBits : Prop :=
  ∀ (s : State) (rt rs : Reg) (imm : Int),
    ChecksLiteral (.lui rt imm) s rt imm 65536 (W (imm * 65536))
      ∧ ChecksLiteral (.andi rt rs imm) s rt imm 65536 (s.getX rs &&& W imm)
      ∧ ChecksLiteral (.ori rt rs imm) s rt imm 65536 (s.getX rs ||| W imm)
      ∧ ChecksLiteral (.xori rt rs imm) s rt imm 65536 (s.getX rs ^^^ W imm)

/-- O28. For all registers and states: and, or, nor and xor complete, write a Word each bit of which is the named
function of the two operand bits, and change nothing else. (R120, R121, R122, R123) -/
def Obligations.BitwiseRegisterForms : Prop :=
  ∀ (s : State) (rd rs rt : Reg),
    (Completes (.and rd rs rt) s fun t => ∃ v, WritesX s t rd v
        ∧ ∀ k < 32, v.getLsbD k = ((s.getX rs).getLsbD k && (s.getX rt).getLsbD k))
      ∧ (Completes (.or rd rs rt) s fun t => ∃ v, WritesX s t rd v
        ∧ ∀ k < 32, v.getLsbD k = ((s.getX rs).getLsbD k || (s.getX rt).getLsbD k))
      ∧ (Completes (.nor rd rs rt) s fun t => ∃ v, WritesX s t rd v
        ∧ ∀ k < 32, v.getLsbD k = !((s.getX rs).getLsbD k || (s.getX rt).getLsbD k))
      ∧ (Completes (.xor rd rs rt) s fun t => ∃ v, WritesX s t rd v
        ∧ ∀ k < 32, v.getLsbD k = ((s.getX rs).getLsbD k != (s.getX rt).getLsbD k))

/-- O29. For all registers, amounts and states: sll, srl and sra by a literal in [0, 32) write W of the product with
2^n, of the floor of the unsigned and of the signed quotient, and raise InvalidImmediate for any other literal;
sllv, srlv and srav do the same by u(x[rs]) mod 32 and never fault. Nothing else changes. (R127, R128, R129, R130,
R131, R132) -/
def Obligations.ShiftsTakeTheirAmountModulo32 : Prop :=
  ∀ (s : State) (rd rt rs : Reg) (sa : Int),
    ChecksLiteral (.sll rd rt sa) s rd sa 32 (W ((s.getX rt).toNat * 2 ^ sa.toNat))
      ∧ ChecksLiteral (.srl rd rt sa) s rd sa 32 (W ((s.getX rt).toNat / 2 ^ sa.toNat))
      ∧ ChecksLiteral (.sra rd rt sa) s rd sa 32 (W ((s.getX rt).toInt / 2 ^ sa.toNat))
      ∧ (Completes (.sllv rd rt rs) s fun t =>
        WritesX s t rd (W ((s.getX rt).toNat * 2 ^ ((s.getX rs).toNat % 32))))
      ∧ (Completes (.srlv rd rt rs) s fun t =>
        WritesX s t rd (W ((s.getX rt).toNat / 2 ^ ((s.getX rs).toNat % 32))))
      ∧ (Completes (.srav rd rt rs) s fun t =>
        WritesX s t rd (W ((s.getX rt).toInt / 2 ^ ((s.getX rs).toNat % 32))))

/-- O30. For all registers and states: mul writes W of the signed product to rd only; mult and multu write bits
63:32 and 31:0 of the exact signed and unsigned product to hi and lo only; mfhi and mflo write hi and lo to rd only.
(R140, R141, R142, R149, R150) -/
def Obligations.MultiplyAndHiLoMoves : Prop :=
  ∀ (s : State) (rd rs rt : Reg),
    (Completes (.mul rd rs rt) s fun t => WritesX s t rd (W ((s.getX rs).toInt * (s.getX rt).toInt)))
      ∧ (Completes (.mult rs rt) s fun t => ∃ h l : Word, WritesHiLo s t h l
        ∧ h.toInt * 2 ^ 32 + l.toNat = (s.getX rs).toInt * (s.getX rt).toInt)
      ∧ (Completes (.multu rs rt) s fun t => ∃ h l : Word, WritesHiLo s t h l
        ∧ h.toNat * 2 ^ 32 + l.toNat = (s.getX rs).toNat * (s.getX rt).toNat)
      ∧ (Completes (.mfhi rd) s fun t => WritesX s t rd s.hi)
      ∧ (Completes (.mflo rd) s fun t => WritesX s t rd s.lo)

/-- O31. For all registers and states: div by a non-zero divisor writes W(q) to lo and W(r) to hi where a = q*b + r,
|r| < |b| and r has the sign of a (so -2^31 / -1 wraps); divu writes the unsigned quotient and remainder; a zero
divisor raises DivisionByZero and neither hi nor lo is written. (R143, R144) -/
def Obligations.DivisionTruncatesTowardZero : Prop :=
  ∀ (s : State) (rs rt : Reg),
    ((s.getX rt).toInt ≠ 0 → Completes (.div rs rt) s fun t => ∃ q r : Int, WritesHiLo s t (W r) (W q)
        ∧ (s.getX rs).toInt = q * (s.getX rt).toInt + r ∧ |r| < |(s.getX rt).toInt|
        ∧ (0 ≤ (s.getX rs).toInt → 0 ≤ r) ∧ ((s.getX rs).toInt ≤ 0 → r ≤ 0))
      ∧ ((s.getX rt).toInt = 0 → Completes (.div rs rt) s fun t => Raises s t .divisionByZero none)
      ∧ ((s.getX rt).toNat ≠ 0 → Completes (.divu rs rt) s fun t => ∃ q r : Word, WritesHiLo s t r q
        ∧ (s.getX rs).toNat = q.toNat * (s.getX rt).toNat + r.toNat ∧ r.toNat < (s.getX rt).toNat)
      ∧ ((s.getX rt).toNat = 0 → Completes (.divu rs rt) s fun t => Raises s t .divisionByZero none)

/-- O32. For all registers and states: the four complete, hi and lo become the halves of the accumulator plus or
minus the signed or unsigned product taken modulo 2^64, and nothing else changes. (R145, R146, R147, R148) -/
def Obligations.MultiplyAccumulateWrapsModulo2To64 : Prop :=
  ∀ (s : State) (rs rt : Reg),
    (Completes (.madd rs rt) s fun t => ∃ h l : Word, WritesHiLo s t h l ∧ (h.toNat * 2 ^ 32 + l.toNat : Int)
        = (s.hi.toInt * 2 ^ 32 + s.lo.toNat + (s.getX rs).toInt * (s.getX rt).toInt) % 2 ^ 64)
      ∧ (Completes (.maddu rs rt) s fun t => ∃ h l : Word, WritesHiLo s t h l ∧ (h.toNat * 2 ^ 32 + l.toNat : Int)
        = (s.hi.toNat * 2 ^ 32 + s.lo.toNat + (s.getX rs).toNat * (s.getX rt).toNat) % 2 ^ 64)
      ∧ (Completes (.msub rs rt) s fun t => ∃ h l : Word, WritesHiLo s t h l ∧ (h.toNat * 2 ^ 32 + l.toNat : Int)
        = (s.hi.toInt * 2 ^ 32 + s.lo.toNat - (s.getX rs).toInt * (s.getX rt).toInt) % 2 ^ 64)
      ∧ (Completes (.msubu rs rt) s fun t => ∃ h l : Word, WritesHiLo s t h l ∧ (h.toNat * 2 ^ 32 + l.toNat : Int)
        = (s.hi.toNat * 2 ^ 32 + s.lo.toNat - (s.getX rs).toNat * (s.getX rt).toNat) % 2 ^ 64)

/-- O33. For all registers and states: clz (clo) completes and writes the n <= 32 such that the n highest bits of
the operand are 0 (1) and, when n < 32, the next bit is 1 (0); nothing else changes. (R265, R266) -/
def Obligations.LeadingBitCounts : Prop :=
  ∀ (s : State) (rd rs : Reg),
    (Completes (.clz rd rs) s fun t => ∃ n ≤ 32, WritesX s t rd (BitVec.ofNat 32 n)
        ∧ (∀ k < n, (s.getX rs).getLsbD (31 - k) = false) ∧ (n < 32 → (s.getX rs).getLsbD (31 - n) = true))
      ∧ (Completes (.clo rd rs) s fun t => ∃ n ≤ 32, WritesX s t rd (BitVec.ofNat 32 n)
        ∧ (∀ k < n, (s.getX rs).getLsbD (31 - k) = true) ∧ (n < 32 → (s.getX rs).getLsbD (31 - n) = false))

/-- O34. For all registers and states: the ten arithmetic instructions write the pattern that the model's arithmetic
on the formats gives, or some NaN of the format where it gives none, to fd (or its pair) and change nothing else.
What that arithmetic gives is stated by the statements on NaNs, zero divisors, rounding and roots. (R160, R161,
R162, R164, R165, R166, R168, R169, R170, R171, R173) -/
def Obligations.FloatArithmeticCompletes : Prop :=
  ∀ (s : State) (fd fs ft : FReg),
    (Completes (.addS fd fs ft) s fun t => PutsSingle s t fd (single.addData (s.datumS fs) (s.datumS ft)))
      ∧ (Completes (.subS fd fs ft) s fun t => PutsSingle s t fd (single.addData (s.datumS fs) (s.datumS ft).negate))
      ∧ (Completes (.mulS fd fs ft) s fun t => PutsSingle s t fd (single.mulData (s.datumS fs) (s.datumS ft)))
      ∧ (Completes (.divS fd fs ft) s fun t => PutsSingle s t fd
        (single.divData (Div0SignRule.forSingle s.cfg.div0Sign) (s.datumS fs) (s.datumS ft)))
      ∧ (Completes (.sqrtS fd fs) s fun t => PutsSingle s t fd (single.sqrtData (s.datumS fs)))
      ∧ (Completes (.addD fd fs ft) s fun t => PutsDouble s t fd (double.addData (s.datumD fs) (s.datumD ft)))
      ∧ (Completes (.subD fd fs ft) s fun t => PutsDouble s t fd (double.addData (s.datumD fs) (s.datumD ft).negate))
      ∧ (Completes (.mulD fd fs ft) s fun t => PutsDouble s t fd (double.mulData (s.datumD fs) (s.datumD ft)))
      ∧ (Completes (.divD fd fs ft) s fun t => PutsDouble s t fd
        (double.divData (Div0SignRule.forDouble s.cfg.div0Sign) (s.datumD fs) (s.datumD ft)))
      ∧ (Completes (.sqrtD fd fs) s fun t => PutsDouble s t fd (double.sqrtData (s.datumD fs)))

/-- O35. In both formats: add, sub, mul and div with a NaN operand, sqrt and the format conversions of a NaN, inf -
inf, 0 * inf, 0 / 0, inf / inf and the root of a negative number each complete and write some NaN, of unspecified
sign and payload, to fd and nothing else. (R161, R164, R165, R166, R167, R168, R169, R170, R171, R172, R173, R183)
-/
def Obligations.NaNOperandsAndInvalidOperationsGiveNaN : Prop :=
  ∀ (s : State) (fd fs ft : FReg),
    (s.datumS fs = .nan ∨ s.datumS ft = .nan →
        (Completes (.addS fd fs ft) s fun t => WritesNaN s t fd) ∧ (Completes (.subS fd fs ft) s fun t => WritesNaN s t fd)
          ∧ (Completes (.mulS fd fs ft) s fun t => WritesNaN s t fd)
          ∧ (Completes (.divS fd fs ft) s fun t => WritesNaN s t fd))
      ∧ (s.datumD fs = .nan ∨ s.datumD ft = .nan →
        (Completes (.addD fd fs ft) s fun t => WritesNaND s t fd) ∧ (Completes (.subD fd fs ft) s fun t => WritesNaND s t fd)
          ∧ (Completes (.mulD fd fs ft) s fun t => WritesNaND s t fd)
          ∧ (Completes (.divD fd fs ft) s fun t => WritesNaND s t fd))
      ∧ (s.datumS fs = .nan → (Completes (.sqrtS fd fs) s fun t => WritesNaN s t fd)
        ∧ (Completes (.cvtDS fd fs) s fun t => WritesNaND s t fd))
      ∧ (s.datumD fs = .nan → (Completes (.sqrtD fd fs) s fun t => WritesNaND s t fd)
        ∧ (Completes (.cvtSD fd fs) s fun t => WritesNaN s t fd))
      ∧ (∀ n m u v,
        (s.datumS fs = .inf n → s.datumS ft = .inf (!n) → Completes (.addS fd fs ft) s fun t => WritesNaN s t fd)
          ∧ (s.datumS fs = .inf n → s.datumS ft = .inf n → Completes (.subS fd fs ft) s fun t => WritesNaN s t fd)
          ∧ (s.datumS fs = .inf n → s.datumS ft = .fin m 0 → Completes (.mulS fd fs ft) s fun t => WritesNaN s t fd)
          ∧ (s.datumS fs = .fin m 0 → s.datumS ft = .inf n → Completes (.mulS fd fs ft) s fun t => WritesNaN s t fd)
          ∧ (s.datumS fs = .inf n → s.datumS ft = .inf m → Completes (.divS fd fs ft) s fun t => WritesNaN s t fd)
          ∧ (s.datumS fs = .fin n 0 → s.datumS ft = .fin m 0 → Completes (.divS fd fs ft) s fun t => WritesNaN s t fd)
          ∧ (s.datumS fs = .inf true ∨ s.datumS fs = .fin true (u + 1) →
            Completes (.sqrtS fd fs) s fun t => WritesNaN s t fd)
          ∧ (s.datumD fs = .inf n → s.datumD ft = .inf (!n) → Completes (.addD fd fs ft) s fun t => WritesNaND s t fd)
          ∧ (s.datumD fs = .inf n → s.datumD ft = .inf n → Completes (.subD fd fs ft) s fun t => WritesNaND s t fd)
          ∧ (s.datumD fs = .inf n → s.datumD ft = .fin m 0 → Completes (.mulD fd fs ft) s fun t => WritesNaND s t fd)
          ∧ (s.datumD fs = .fin m 0 → s.datumD ft = .inf n → Completes (.mulD fd fs ft) s fun t => WritesNaND s t fd)
          ∧ (s.datumD fs = .inf n → s.datumD ft = .inf m → Completes (.divD fd fs ft) s fun t => WritesNaND s t fd)
          ∧ (s.datumD fs = .fin n 0 → s.datumD ft = .fin m 0 → Completes (.divD fd fs ft) s fun t => WritesNaND s t fd)
          ∧ (s.datumD fs = .inf true ∨ s.datumD fs = .fin true (v + 1) →
            Completes (.sqrtD fd fs) s fun t => WritesNaND s t fd))

/-- O36. In both formats. Under the spec's own sign rule (DIV0_SIGN_RULE as written): a non-zero number or infinity
over a zero is an infinity, in div.s with the exclusive-or of the signs, in div.d with the sign of the dividend. A
finite number over an infinity is a zero, an infinity over a non-zero number an infinity. An infinity plus or minus
a finite number, in either order, and two infinities that agree (of one sign in a sum, of two in a difference) give
the infinity. An infinity times a non-zero number, in either order, or times an infinity is an infinity. The root of
+inf is +inf and of a zero that zero. (R162, R164, R165, R166, R167, R168, R169, R170, R171, R172, R173,
90_conflicts.md) -/
def Obligations.FloatDivisionAndInfinities : Prop :=
  ∀ (s : State) (fd fs ft : FReg) (n m : Bool) (u v : Nat),
    (s.cfg.div0Sign = .asWritten →
        (s.datumS fs = .fin n (u + 1) ∨ s.datumS fs = .inf n → s.datumS ft = .fin m 0 →
          Completes (.divS fd fs ft) s fun t => WritesF s t fd (if n = m then 0x7F800000 else 0xFF800000))
          ∧ (s.datumD fs = .fin n (u + 1) ∨ s.datumD fs = .inf n → s.datumD ft = .fin m 0 →
            Completes (.divD fd fs ft) s fun t =>
              WritesFD s t fd (if n then 0xFFF0000000000000 else 0x7FF0000000000000)))
      ∧ (s.datumS fs = .fin n u → s.datumS ft = .inf m →
        (Completes (.divS fd fs ft) s fun t => WritesF s t fd (if n = m then 0 else 0x80000000))
          ∧ (Completes (.addS fd fs ft) s fun t => WritesF s t fd (if m = false then 0x7F800000 else 0xFF800000))
          ∧ (Completes (.subS fd fs ft) s fun t => WritesF s t fd (if m = true then 0x7F800000 else 0xFF800000)))
      ∧ (s.datumS fs = .inf n → s.datumS ft = .fin m v →
        (Completes (.addS fd fs ft) s fun t => WritesF s t fd (if n = false then 0x7F800000 else 0xFF800000))
          ∧ (Completes (.subS fd fs ft) s fun t => WritesF s t fd (if n = false then 0x7F800000 else 0xFF800000)))
      ∧ (s.datumS fs = .inf n → s.datumS ft = .inf n → (Completes (.addS fd fs ft) s fun t => WritesF s t fd (if n = false then 0x7F800000 else 0xFF800000)))
      ∧ (s.datumS fs = .inf n → s.datumS ft = .inf (!n) → (Completes (.subS fd fs ft) s fun t => WritesF s t fd (if n = false then 0x7F800000 else 0xFF800000)))
      ∧ (s.datumS fs = .inf n ∧ s.datumS ft = .fin m (v + 1) ∨ s.datumS fs = .fin n (u + 1) ∧ s.datumS ft = .inf m
          ∨ s.datumS fs = .inf n ∧ s.datumS ft = .inf m →
        (Completes (.mulS fd fs ft) s fun t => WritesF s t fd (if n = m then 0x7F800000 else 0xFF800000)))
      ∧ (s.datumS fs = .inf n → s.datumS ft = .fin m (v + 1) →
        (Completes (.divS fd fs ft) s fun t => WritesF s t fd (if n = m then 0x7F800000 else 0xFF800000)))
      ∧ (s.datumS fs = .inf false ∨ s.datumS fs = .fin n 0 →
        Completes (.sqrtS fd fs) s fun t => WritesF s t fd (s.getF fs))
      ∧ (s.datumD fs = .fin n u → s.datumD ft = .inf m →
        (Completes (.divD fd fs ft) s fun t => WritesFD s t fd (if n = m then 0 else 0x8000000000000000))
          ∧ (Completes (.addD fd fs ft) s fun t => WritesFD s t fd (if m = false then 0x7FF0000000000000 else 0xFFF0000000000000))
          ∧ (Completes (.subD fd fs ft) s fun t => WritesFD s t fd (if m = true then 0x7FF0000000000000 else 0xFFF0000000000000)))
      ∧ (s.datumD fs = .inf n → s.datumD ft = .fin m v →
        (Completes (.addD fd fs ft) s fun t => WritesFD s t fd (if n = false then 0x7FF0000000000000 else 0xFFF0000000000000))
          ∧ (Completes (.subD fd fs ft) s fun t => WritesFD s t fd (if n = false then 0x7FF0000000000000 else 0xFFF0000000000000)))
      ∧ (s.datumD fs = .inf n → s.datumD ft = .inf n → (Completes (.addD fd fs ft) s fun t => WritesFD s t fd (if n = false then 0x7FF0000000000000 else 0xFFF0000000000000)))
      ∧ (s.datumD fs = .inf n → s.datumD ft = .inf (!n) → (Completes (.subD fd fs ft) s fun t => WritesFD s t fd (if n = false then 0x7FF0000000000000 else 0xFFF0000000000000)))
      ∧ (s.datumD fs = .inf n ∧ s.datumD ft = .fin m (v + 1) ∨ s.datumD fs = .fin n (u + 1) ∧ s.datumD ft = .inf m
          ∨ s.datumD fs = .inf n ∧ s.datumD ft = .inf m →
        (Completes (.mulD fd fs ft) s fun t => WritesFD s t fd (if n = m then 0x7FF0000000000000 else 0xFFF0000000000000)))
      ∧ (s.datumD fs = .inf n → s.datumD ft = .fin m (v + 1) →
        (Completes (.divD fd fs ft) s fun t => WritesFD s t fd (if n = m then 0x7FF0000000000000 else 0xFFF0000000000000)))
      ∧ (s.datumD fs = .inf false ∨ s.datumD fs = .fin n 0 →
        Completes (.sqrtD fd fs) s fun t => WritesFD s t fd (s.getFD fs))

/-- O37. In both formats, for all finite operands (a zero divisor set aside): the result is the pattern of the
format nearest to the exact real sum, difference, product or quotient, the even one of two, or the infinity from
half a step past the largest finite number on; subnormals included. Its sign is the sign of the exact result, the
exclusive-or of the signs for products and quotients, and an exact zero sum is -0 only for two negative zeros, an
exact zero difference only for (-0) - (+0) (there R160 can be read to give +0: -0 is the model's choice, log 35).
(R160, R164, R165, R166, R167, R169, R170, R171, R172) -/
def Obligations.FiniteArithmeticRoundsOnceToNearestEven : Prop :=
  ∀ (s : State) (fd fs ft : FReg) (n m : Bool) (u v : Nat),
    (s.datumS fs = .fin n u → s.datumS ft = .fin m v →
        (Completes (.addS fd fs ft) s fun t => ∃ w : Word, WritesF s t fd w
          ∧ IsRounded single w.toNat
            ((unitValue (2 ^ single.unitExp) n u) + (unitValue (2 ^ single.unitExp) m v))
          ∧ single.negative w.toNat =
            (if (unitValue (2 ^ single.unitExp) n u) + (unitValue (2 ^ single.unitExp) m v) = 0 then n && m else decide ((unitValue (2 ^ single.unitExp) n u) + (unitValue (2 ^ single.unitExp) m v) < 0)))
          ∧ (Completes (.subS fd fs ft) s fun t => ∃ w : Word, WritesF s t fd w
          ∧ IsRounded single w.toNat
            ((unitValue (2 ^ single.unitExp) n u) - (unitValue (2 ^ single.unitExp) m v))
          ∧ single.negative w.toNat =
            (if (unitValue (2 ^ single.unitExp) n u) - (unitValue (2 ^ single.unitExp) m v) = 0 then n && !m else decide ((unitValue (2 ^ single.unitExp) n u) - (unitValue (2 ^ single.unitExp) m v) < 0)))
          ∧ (Completes (.mulS fd fs ft) s fun t => ∃ w : Word, WritesF s t fd w
          ∧ IsRounded single w.toNat
            ((unitValue (2 ^ single.unitExp) n u) * (unitValue (2 ^ single.unitExp) m v))
          ∧ single.negative w.toNat =
            (n != m))
          ∧ (v ≠ 0 → Completes (.divS fd fs ft) s fun t => ∃ w : Word, WritesF s t fd w
          ∧ IsRounded single w.toNat
            ((unitValue (2 ^ single.unitExp) n u) / (unitValue (2 ^ single.unitExp) m v))
          ∧ single.negative w.toNat = (n != m)))
      ∧ (s.datumD fs = .fin n u → s.datumD ft = .fin m v →
        (Completes (.addD fd fs ft) s fun t => ∃ w : DWord, WritesFD s t fd w
          ∧ IsRounded double w.toNat
            ((unitValue (2 ^ double.unitExp) n u) + (unitValue (2 ^ double.unitExp) m v))
          ∧ double.negative w.toNat =
            (if (unitValue (2 ^ double.unitExp) n u) + (unitValue (2 ^ double.unitExp) m v) = 0 then n && m else decide ((unitValue (2 ^ double.unitExp) n u) + (unitValue (2 ^ double.unitExp) m v) < 0)))
          ∧ (Completes (.subD fd fs ft) s fun t => ∃ w : DWord, WritesFD s t fd w
          ∧ IsRounded double w.toNat
            ((unitValue (2 ^ double.unitExp) n u) - (unitValue (2 ^ double.unitExp) m v))
          ∧ double.negative w.toNat =
            (if (unitValue (2 ^ double.unitExp) n u) - (unitValue (2 ^ double.unitExp) m v) = 0 then n && !m else decide ((unitValue (2 ^ double.unitExp) n u) - (unitValue (2 ^ double.unitExp) m v) < 0)))
          ∧ (Completes (.mulD fd fs ft) s fun t => ∃ w : DWord, WritesFD s t fd w
          ∧ IsRounded double w.toNat
            ((unitValue (2 ^ double.unitExp) n u) * (unitValue (2 ^ double.unitExp) m v))
          ∧ double.negative w.toNat =
            (n != m))
          ∧ (v ≠ 0 → Completes (.divD fd fs ft) s fun t => ∃ w : DWord, WritesFD s t fd w
          ∧ IsRounded double w.toNat
            ((unitValue (2 ^ double.unitExp) n u) / (unitValue (2 ^ double.unitExp) m v))
          ∧ double.negative w.toNat = (n != m)))

/-- O38. For every positive finite operand the result lies between the midpoints to its two neighbours in the
format: the squares of the two midpoints enclose the operand, and a root on a midpoint goes to the even pattern.
(R160, R168, R173) -/
def Obligations.SquareRootsRoundOnceToNearestEven : Prop :=
  ∀ (s : State) (fd fs : FReg) (u : Nat),
    (s.datumS fs = .fin false (u + 1) →
        Completes (.sqrtS fd fs) s fun t => ∃ (w : Word) (lo m hi : Nat), WritesF s t fd w
          ∧ single.datum (w.toNat - 1) = .fin false lo ∧ single.datum w.toNat = .fin false m
          ∧ single.datum (w.toNat + 1) = .fin false hi
          ∧ (lo + m) ^ 2 ≤ 4 * (u + 1) * 2 ^ single.unitExp ∧ 4 * (u + 1) * 2 ^ single.unitExp ≤ (m + hi) ^ 2
          ∧ ((lo + m) ^ 2 = 4 * (u + 1) * 2 ^ single.unitExp ∨ 4 * (u + 1) * 2 ^ single.unitExp = (m + hi) ^ 2 →
            w.toNat % 2 = 0))
      ∧ (s.datumD fs = .fin false (u + 1) →
        Completes (.sqrtD fd fs) s fun t => ∃ (w : DWord) (lo m hi : Nat), WritesFD s t fd w
          ∧ double.datum (w.toNat - 1) = .fin false lo ∧ double.datum w.toNat = .fin false m
          ∧ double.datum (w.toNat + 1) = .fin false hi
          ∧ (lo + m) ^ 2 ≤ 4 * (u + 1) * 2 ^ double.unitExp ∧ 4 * (u + 1) * 2 ^ double.unitExp ≤ (m + hi) ^ 2
          ∧ ((lo + m) ^ 2 = 4 * (u + 1) * 2 ^ double.unitExp ∨ 4 * (u + 1) * 2 ^ double.unitExp = (m + hi) ^ 2 →
            w.toNat % 2 = 0))

/-- O39. For all registers and states: round and cvt (to nearest, ties to even), trunc, ceil and floor write W of
the rounded integer to the one register fd when it lies in [-2^31, 2^31 - 1], and 0x7FFFFFFF when it does not and
for a NaN or an infinity; nothing else changes. (R174, R175, R176, R177, R178, R179, R180, R181, R182, R187, R188)
-/
def Obligations.FloatToWordRoundsAndSaturates : Prop :=
  ∀ (s : State) (fd fs : FReg),
    (Completes (.roundWS fd fs) s fun t => ∃ w, WritesF s t fd w
        ∧ ToWord (2 ^ single.unitExp) IsNearestEven (s.datumS fs) w)
      ∧ (Completes (.roundWD fd fs) s fun t => ∃ w, WritesF s t fd w
        ∧ ToWord (2 ^ double.unitExp) IsNearestEven (s.datumD fs) w)
      ∧ (Completes (.truncWS fd fs) s fun t => ∃ w, WritesF s t fd w
        ∧ ToWord (2 ^ single.unitExp) IsTrunc (s.datumS fs) w)
      ∧ (Completes (.truncWD fd fs) s fun t => ∃ w, WritesF s t fd w
        ∧ ToWord (2 ^ double.unitExp) IsTrunc (s.datumD fs) w)
      ∧ (Completes (.ceilWS fd fs) s fun t => ∃ w, WritesF s t fd w
        ∧ ToWord (2 ^ single.unitExp) IsCeil (s.datumS fs) w)
      ∧ (Completes (.ceilWD fd fs) s fun t => ∃ w, WritesF s t fd w
        ∧ ToWord (2 ^ double.unitExp) IsCeil (s.datumD fs) w)
      ∧ (Completes (.floorWS fd fs) s fun t => ∃ w, WritesF s t fd w
        ∧ ToWord (2 ^ single.unitExp) IsFloor (s.datumS fs) w)
      ∧ (Completes (.floorWD fd fs) s fun t => ∃ w, WritesF s t fd w
        ∧ ToWord (2 ^ double.unitExp) IsFloor (s.datumD fs) w)
      ∧ (Completes (.cvtWS fd fs) s fun t => ∃ w, WritesF s t fd w
        ∧ ToWord (2 ^ single.unitExp) IsNearestEven (s.datumS fs) w)
      ∧ (Completes (.cvtWD fd fs) s fun t => ∃ w, WritesF s t fd w
        ∧ ToWord (2 ^ double.unitExp) IsNearestEven (s.datumD fs) w)

/-- O40. For all registers and states: cvt.s.d gives the rounded single of a finite double, the same infinity, or
some NaN; cvt.s.w the rounded single of the signed Word; cvt.d.s and cvt.d.w a double of exactly the value of the
single or of the Word. Only fd (or its pair) changes. (R183, R184, R185, R186) -/
def Obligations.ConversionsBetweenNumberFormats : Prop :=
  ∀ (s : State) (fd fs : FReg),
    (Completes (.cvtSD fd fs) s fun t => match s.datumD fs with
        | .nan => WritesNaN s t fd
        | .inf n => WritesF s t fd (if n then 0xFF800000 else 0x7F800000)
        | .fin n m => ∃ w, WritesF s t fd w ∧ IsRounded single w.toNat (unitValue (2 ^ double.unitExp) n m)
          ∧ single.negative w.toNat = n)
      ∧ (Completes (.cvtSW fd fs) s fun t => ∃ w, WritesF s t fd w
        ∧ IsRounded single w.toNat ((s.getF fs).toInt : ℚ)
        ∧ single.negative w.toNat = decide ((s.getF fs).toInt < 0))
      ∧ (Completes (.cvtDS fd fs) s fun t => match s.datumS fs with
        | .nan => WritesNaND s t fd
        | .inf n => ∃ w, WritesFD s t fd w ∧ double.datum w.toNat = .inf n
        | .fin n m => ∃ w, WritesFD s t fd w
          ∧ double.datum w.toNat = .fin n (m * 2 ^ (double.unitExp - single.unitExp)))
      ∧ (Completes (.cvtDW fd fs) s fun t => ∃ w, WritesFD s t fd w
        ∧ double.datum w.toNat
          = .fin (decide ((s.getF fs).toInt < 0)) ((s.getF fs).toInt.natAbs * 2 ^ double.unitExp))

/-- O41. For all registers and states: mfc1 writes the 32 raw bits of f[fs] to x[rt] and mtc1 those of x[rt] to
f[fs], and nothing else changes; mfc1 to $zero writes nothing. (R189, R190) -/
def Obligations.MovesBetweenTheFilesKeepEveryBit : Prop :=
  ∀ (s : State) (rt : Reg) (fs : FReg),
    (Completes (.mfc1 rt fs) s fun t => WritesX s t rt (s.getF fs))
      ∧ (Completes (.mtc1 rt fs) s fun t => WritesF s t fs (s.getX rt))

/-- O42. For all registers, offsets and states in both byte orders: with ea = W(u(x[base]) + offset), a misaligned
ea raises MisalignedAddress, else one that is not readable MemoryOutOfBounds, both with bad_address = ea and nothing
written; else rt gets the sign- or zero-extended value of the bytes at ea and nothing else changes. (R201, R202,
R203, R204, R205) -/
def Obligations.IntegerLoadsReadAndExtend : Prop :=
  ∀ (s : State) (rt base : Reg) (offset : Int),
    Loads (.lb rt offset base) s (addressOf s base offset) 1
        (fun t v => WritesX s t rt ((BitVec.ofNat 8 v).signExtend 32))
      ∧ Loads (.lbu rt offset base) s (addressOf s base offset) 1 (fun t v => WritesX s t rt (BitVec.ofNat 32 v))
      ∧ Loads (.lh rt offset base) s (addressOf s base offset) 2
        (fun t v => WritesX s t rt ((BitVec.ofNat 16 v).signExtend 32))
      ∧ Loads (.lhu rt offset base) s (addressOf s base offset) 2 (fun t v => WritesX s t rt (BitVec.ofNat 32 v))
      ∧ Loads (.lw rt offset base) s (addressOf s base offset) 4 (fun t v => WritesX s t rt (BitVec.ofNat 32 v))

/-- O43. For all registers, offsets and states in both byte orders: with ea = W(u(x[base]) + offset), a misaligned
ea raises MisalignedAddress, else one that is not writable (text included) MemoryOutOfBounds, and memory is
unchanged; else the 1, 2 or 4 bytes from ea on become those of the low bits of rt and every other byte and all other
state is unchanged. (R206, R207, R208) -/
def Obligations.IntegerStoresReplaceExactlyTheirBytes : Prop :=
  ∀ (s : State) (rt base : Reg) (offset : Int),
    StoresTo (.sb rt offset base) s (addressOf s base offset) 1 (s.getX rt).toNat
      ∧ StoresTo (.sh rt offset base) s (addressOf s base offset) 2 (s.getX rt).toNat
      ∧ StoresTo (.sw rt offset base) s (addressOf s base offset) 4 (s.getX rt).toNat

/-- O44. For all registers, offsets and states in both byte orders: with ea = W(u(x[base]) + offset), a misaligned
ea (of 4 for lwc1 and swc1, of 8 for ldc1 and sdc1) raises MisalignedAddress, else one not admitted
MemoryOutOfBounds; else the raw bits of f[ft], or of the pair, are loaded or stored and nothing else changes. (R213,
R214, R215, R216) -/
def Obligations.FloatLoadsAndStoresMoveRawBits : Prop :=
  ∀ (s : State) (ft : FReg) (base : Reg) (offset : Int),
    Loads (.lwc1 ft offset base) s (addressOf s base offset) 4 (fun t v => WritesF s t ft (BitVec.ofNat 32 v))
      ∧ StoresTo (.swc1 ft offset base) s (addressOf s base offset) 4 (s.getF ft).toNat
      ∧ Loads (.ldc1 ft offset base) s (addressOf s base offset) 8 (fun t v => WritesFD s t ft (BitVec.ofNat 64 v))
      ∧ StoresTo (.sdc1 ft offset base) s (addressOf s base offset) 8 (s.getF (ft + 1) ++ s.getF ft).toNat

/-- O45. For all registers, offsets and states: with k = ea mod 4 and the aligned word at ea - k, lwl and lwr load
the bytes the tables of each byte order name into the register bytes they name and keep the others; if a touched
byte is not readable they raise MemoryOutOfBounds and rt is unchanged. No alignment is required. (R209, R210) -/
def Obligations.PartialLoadsMergeByTheByteTables : Prop :=
  ∀ (s : State) (rt base : Reg) (offset : Int) (ea k : Nat), ea = (addressOf s base offset).toNat → k = ea % 4 →
    (s.cfg.endian = .little →
        LoadsPart (.lwl rt offset base) s rt (ea - k) (k + 1)
            (fun j => if 3 - k ≤ j then s.byteAt (ea - k + (j - (3 - k))) else regByte (s.getX rt) j)
          ∧ LoadsPart (.lwr rt offset base) s rt ea (4 - k)
            (fun j => if j < 4 - k then s.byteAt (ea + j) else regByte (s.getX rt) j))
      ∧ (s.cfg.endian = .big →
        LoadsPart (.lwl rt offset base) s rt ea (4 - k)
            (fun j => if k ≤ j then s.byteAt (ea + (3 - j)) else regByte (s.getX rt) j)
          ∧ LoadsPart (.lwr rt offset base) s rt (ea - k) (k + 1)
            (fun j => if j ≤ k then s.byteAt (ea - j) else regByte (s.getX rt) j))

/-- O46. For all registers, offsets and states: with k = ea mod 4 and the aligned word at ea - k, swl and swr store
the register bytes the tables of each byte order name to the bytes they name, every other byte of memory and all
other state unchanged; if a touched byte is not writable they raise MemoryOutOfBounds and memory is unchanged.
(R211, R212) -/
def Obligations.PartialStoresReplaceByTheByteTables : Prop :=
  ∀ (s : State) (rt base : Reg) (offset : Int) (ea k : Nat), ea = (addressOf s base offset).toNat → k = ea % 4 →
    (s.cfg.endian = .little →
        StoresPart (.swl rt offset base) s (ea - k) (ea - k) (k + 1) (fun j => regByte (s.getX rt) (3 - k + j))
          ∧ StoresPart (.swr rt offset base) s (ea - k) ea (4 - k) (fun j => regByte (s.getX rt) (j - k)))
      ∧ (s.cfg.endian = .big →
        StoresPart (.swl rt offset base) s (ea - k) ea (4 - k) (fun j => regByte (s.getX rt) (3 - (j - k)))
          ∧ StoresPart (.swr rt offset base) s (ea - k) (ea - k) (k + 1) (fun j => regByte (s.getX rt) (k - j)))

/-- O47. For all registers, flags, targets and states: beq, bne, blez, bgtz, bltz, bgez (signed, as Words), bc1t and
bc1f complete; when the condition holds pc becomes the target and nothing else changes, otherwise nothing changes.
(R231, R232, R233, R234, R235, R236, R249, R250) -/
def Obligations.ConditionalBranches : Prop :=
  ∀ (s : State) (rs rt : Reg) (k : CC) (target : Word),
    BranchesIf (.beq rs rt target) s (s.getX rs = s.getX rt) target
      ∧ BranchesIf (.bne rs rt target) s (s.getX rs ≠ s.getX rt) target
      ∧ BranchesIf (.blez rs target) s ((s.getX rs).toInt ≤ 0) target
      ∧ BranchesIf (.bgtz rs target) s ((s.getX rs).toInt > 0) target
      ∧ BranchesIf (.bltz rs target) s ((s.getX rs).toInt < 0) target
      ∧ BranchesIf (.bgez rs target) s ((s.getX rs).toInt ≥ 0) target
      ∧ BranchesIf (.bc1t k target) s (s.getCC k = true) target
      ∧ BranchesIf (.bc1f k target) s (s.getCC k = false) target

/-- O48. For all registers, targets and states: j and jr set pc to the target or x[rs] and nothing else; jal and
jalr also write the pc of the executing state (the address of the next instruction) to $ra or rd, with $zero
discarding it, and jalr jumps to the old x[rs] even when rd is rs. (R237, R238, R239, R240, R241) -/
def Obligations.JumpsAndLinks : Prop :=
  ∀ (s : State) (rd rs : Reg) (target : Word),
    (Completes (.j target) s fun t => JumpsTo s t target)
      ∧ (Completes (.jr rs) s fun t => JumpsTo s t (s.getX rs))
      ∧ (Completes (.jal target) s fun t => t.pc = target
        ∧ (∀ q, t.getX q = if q = 31 then s.pc else s.getX q) ∧ OnlyChanges [.x, .pc] s t)
      ∧ (Completes (.jalr rd rs) s fun t => t.pc = s.getX rs
        ∧ (∀ q, t.getX q = if q = rd ∧ q ≠ 0 then s.pc else s.getX q) ∧ OnlyChanges [.x, .pc] s t)

/-- O49. For all registers, flags and states: c.eq, c.lt and c.le in both formats complete and set the named flag to
the truth of =, < or <= on the extended reals, false when an operand is a NaN; every other flag and all other state
is unchanged. (R242, R243, R244, R245, R246, R247, R248) -/
def Obligations.FloatComparesWriteOneFlag : Prop :=
  ∀ (s : State) (k : CC) (fs ft : FReg),
    Compares (.cEqS k fs ft) s k (Ordered (fun p q => p = q) (s.datumS fs) (s.datumS ft))
      ∧ Compares (.cLtS k fs ft) s k (Ordered placeLt (s.datumS fs) (s.datumS ft))
      ∧ Compares (.cLeS k fs ft) s k (Ordered (fun p q => placeLt p q ∨ p = q) (s.datumS fs) (s.datumS ft))
      ∧ Compares (.cEqD k fs ft) s k (Ordered (fun p q => p = q) (s.datumD fs) (s.datumD ft))
      ∧ Compares (.cLtD k fs ft) s k (Ordered placeLt (s.datumD fs) (s.datumD ft))
      ∧ Compares (.cLeD k fs ft) s k (Ordered (fun p q => placeLt p q ∨ p = q) (s.datumD fs) (s.datumD ft))

/-- O50. For all registers, flags and states: movt and movf copy by the flag, movn and movz by whether x[rt] is
zero; when the condition is false nothing changes. (R251, R252, R253, R254) -/
def Obligations.ConditionalMoves : Prop :=
  ∀ (s : State) (rd rs rt : Reg) (k : CC),
    MovesIf (.movt rd rs k) s (s.getCC k = true) rd rs
      ∧ MovesIf (.movf rd rs k) s (s.getCC k = false) rd rs
      ∧ MovesIf (.movn rd rs rt) s (s.getX rt ≠ 0) rd rs
      ∧ MovesIf (.movz rd rs rt) s (s.getX rt = 0) rd rs

/-- O51. For every state whose signed $v0 is not one of the twenty service numbers, syscall raises InvalidArgument
and changes nothing else. (R291) -/
def Obligations.UnknownServicesRaiseInvalidArgument : Prop :=
  ∀ s : State,
    (s.getX 2).toInt ∉ ([1, 2, 3, 4, 5, 6, 8, 9, 10, 11, 17, 30, 31, 32, 34, 35, 36, 40, 41, 42] : List Int) →
    Completes .syscall s fun t => Raises s t .invalidArgument none

/-- O52. For every state with $v0 = 1, 36, 35, 2, 3 or 34, syscall completes and changes nothing but the output,
which grows by the decimal numeral of s($a0), of u($a0), the 32 binary digits of $a0 from bit 31 down, or by the
event that carries f[12], fd[12] or $a0. That print_bin writes nothing around its digits is the model's choice
(DESIGN CHOICE, log 28), that digits and the sign are their ASCII codes is presumed (PRESUMED, log 27), and the
texts of the last three are open (log 12). (R273, R274, R275, R286, R287, R288) -/
def Obligations.PrintServicesOnlyWriteTheirValue : Prop :=
  ∀ s : State,
    ((s.getX 2).toInt = 1 → Completes .syscall s fun t =>
        ∃ ds, IsDecimal ds (s.getX 4).toInt ∧ Outputs s t [.bytes ds])
      ∧ ((s.getX 2).toInt = 36 → Completes .syscall s fun t =>
        ∃ ds, IsDecimal ds (s.getX 4).toNat ∧ Outputs s t [.bytes ds])
      ∧ ((s.getX 2).toInt = 35 → Completes .syscall s fun t =>
        ∃ ds : List Byte, ds.length = 32 ∧ Outputs s t [.bytes ds]
          ∧ ∀ k < 32, ds[k]? = some (if (s.getX 4).getLsbD (31 - k) then 0x31 else 0x30))
      ∧ ((s.getX 2).toInt = 2 → Completes .syscall s fun t => Outputs s t [.printFloat (s.getF 12)])
      ∧ ((s.getX 2).toInt = 3 → Completes .syscall s fun t =>
        Outputs s t [.printDouble (s.getF 13 ++ s.getF 12)])
      ∧ ((s.getX 2).toInt = 34 → Completes .syscall s fun t => Outputs s t [.printHex (s.getX 4)])

/-- O53. print_char writes the byte of a Word in the allowed set and raises InvalidCharacter for any other Word.
print_string writes the bytes up to the terminator when all are allowed; a disallowed byte before the terminator
raises InvalidCharacter, an unreadable one MemoryOutOfBounds, and on either nothing is output. Nothing else changes.
(R276, R282) -/
def Obligations.PrintCharAndPrintStringValidateFirst : Prop :=
  ∀ s : State,
    ((s.getX 2).toInt = 11 →
        ((s.getX 4 = 0 ∨ s.getX 4 = 9 ∨ s.getX 4 = 10 ∨ 0x20 ≤ (s.getX 4).toNat ∧ (s.getX 4).toNat ≤ 0x7E) →
            Completes .syscall s fun t => Outputs s t [.bytes [BitVec.ofNat 8 (s.getX 4).toNat]])
          ∧ (¬ (s.getX 4 = 0 ∨ s.getX 4 = 9 ∨ s.getX 4 = 10 ∨ 0x20 ≤ (s.getX 4).toNat ∧ (s.getX 4).toNat ≤ 0x7E) →
            Completes .syscall s fun t => Raises s t .invalidCharacter none))
      ∧ ((s.getX 2).toInt = 4 → ∀ text : List Byte, (∀ b ∈ text, Allowed b) →
        (HoldsString s (s.getX 4) text → Completes .syscall s fun t => Outputs s t (textEvents text))
          ∧ (∀ b, HoldsBytes s (s.getX 4) (text ++ [b]) → ¬ Allowed b →
            Completes .syscall s fun t => Raises s t .invalidCharacter none)
          ∧ (HoldsBytes s (s.getX 4) text →
            s.readAdmitted (s.getX 4 + BitVec.ofNat 32 text.length).toNat 1 = false →
            Completes .syscall s fun t =>
              Raises s t .memoryOutOfBounds (some (s.getX 4 + BitVec.ofNat 32 text.length))))

/-- O54. read_int consumes one line: a numeral in the signed Word range goes to $v0, any other text raises
InvalidInput. atoi does the same with the string at $a0, raising InvalidCharacter for a text that is no numeral and
at a byte outside the allowed set, MemoryOutOfBounds when the string of allowed bytes runs out of readable memory. A
numeral outside the range, and a missing line, have no next state (U9, U10; the names of the stops are logs 9 and
11). The model's readings: a line that faults has been consumed (log 11), the addresses of the string wrap modulo
2^32 (log 16), and the grammar is checked when the string has ended (log 18). (R55, R272, R277, R278,
93_implementation_defined.md) -/
def Obligations.NumeralServicesParseSignedDecimals : Prop :=
  ∀ s : State,
    ((s.getX 2).toInt = 5 →
        (s.input = [] → exec .syscall s = .fault .awaitingInput)
          ∧ ∀ line rest, s.input = line :: rest →
            (∀ z, Denotes line z → inWord z → Completes .syscall s fun t => t.input = rest
                ∧ (∀ q, t.getX q = if q = 2 then W z else s.getX q) ∧ OnlyChanges [.x, .input] s t)
              ∧ (∀ z, Denotes line z → ¬ inWord z → exec .syscall s = .fault .numeralOutOfRange)
              ∧ ((¬ ∃ z, Denotes line z) → Completes .syscall s fun t => t.input = rest ∧ t.run = .faulted
                ∧ t.fault = some ⟨.invalidInput, s.pc - 4, none, none⟩ ∧ t.exitCode = s.exitCode
                ∧ OnlyChanges [.run, .input] s t))
      ∧ ((s.getX 2).toInt = 6 → ∀ text,
        (HoldsString s (s.getX 4) text →
            (∀ z, Denotes text z → inWord z → Completes .syscall s fun t => WritesX s t 2 (W z))
              ∧ (∀ z, Denotes text z → ¬ inWord z → exec .syscall s = .fault .numeralOutOfRange)
              ∧ ((¬ ∃ z, Denotes text z) → Completes .syscall s fun t => Raises s t .invalidCharacter none))
          ∧ ((∀ b ∈ text, Allowed b) →
            (∀ b, HoldsBytes s (s.getX 4) (text ++ [b]) → ¬ Allowed b →
                Completes .syscall s fun t => Raises s t .invalidCharacter none)
              ∧ (HoldsBytes s (s.getX 4) text →
                s.readAdmitted (s.getX 4 + BitVec.ofNat 32 text.length).toNat 1 = false →
                Completes .syscall s fun t =>
                  Raises s t .memoryOutOfBounds (some (s.getX 4 + BitVec.ofNat 32 text.length)))))

/-- O55. With $a1 < 1 nothing is read or written. Otherwise one line is consumed and, with k the smaller of its
length and $a1 - 1, its first k bytes and a zero byte are stored from $a0 on when all those addresses are writable,
nothing else changing; if one is not, MemoryOutOfBounds is raised before any byte is written (that the line has then
been consumed, and that the addresses wrap modulo 2^32, are the model's readings, logs 11 and 16). With no line
there is no next state. (R272, R280) -/
def Obligations.ReadStringStoresTheLineAndATerminator : Prop :=
  ∀ s : State, (s.getX 2).toInt = 8 →
    ((s.getX 5).toInt < 1 → Completes .syscall s fun t => Unchanged s t)
      ∧ (1 ≤ (s.getX 5).toInt → s.input = [] → exec .syscall s = .fault .awaitingInput)
      ∧ (1 ≤ (s.getX 5).toInt → ∀ l rest k, s.input = l :: rest →
        k = min l.length ((s.getX 5).toInt - 1).toNat →
        ((∀ i ≤ k, s.writeAdmitted (s.getX 4 + BitVec.ofNat 32 i).toNat 1 = true) →
            Completes .syscall s fun t => t.input = rest
              ∧ (∀ i (h : i < l.length), i < k → t.byteAt (s.getX 4 + BitVec.ofNat 32 i).toNat = l[i])
              ∧ t.byteAt (s.getX 4 + BitVec.ofNat 32 k).toNat = 0
              ∧ (∀ a, (∀ i ≤ k, a ≠ (s.getX 4 + BitVec.ofNat 32 i).toNat) → t.byteAt a = s.byteAt a)
              ∧ OnlyChanges [.memory, .input] s t)
          ∧ ((∃ i ≤ k, s.writeAdmitted (s.getX 4 + BitVec.ofNat 32 i).toNat 1 = false) →
            Completes .syscall s fun t => t.input = rest ∧ t.run = .faulted
              ∧ (∃ b, t.fault = some ⟨.memoryOutOfBounds, s.pc - 4, some b, none⟩) ∧ t.exitCode = s.exitCode
              ∧ OnlyChanges [.run, .input] s t))

/-- O56. With $v0 = 9 and heapPtr a multiple of 4 (an invariant, R20): a negative $a0 raises InvalidArgument; else,
with new = heapPtr + $a0 rounded up to a multiple of 4, new > initial_sp raises MemoryOutOfBounds, and otherwise $v0
gets the old heapPtr and heapPtr becomes new. Nothing else changes. (R53, R279) -/
def Obligations.SbrkReturnsTheOldHeapPointer : Prop :=
  ∀ s : State, (s.getX 2).toInt = 9 → s.heapPtr.toNat % 4 = 0 →
    ((s.getX 4).toInt < 0 → Completes .syscall s fun t => Raises s t .invalidArgument none)
      ∧ ∀ new : Nat, 0 ≤ (s.getX 4).toInt → new % 4 = 0 →
        s.heapPtr.toNat + (s.getX 4).toNat ≤ new → new < s.heapPtr.toNat + (s.getX 4).toNat + 4 →
        (s.cfg.initialSp.toNat < new → Completes .syscall s fun t =>
            ∃ b, Raises s t .memoryOutOfBounds b)
          ∧ (new ≤ s.cfg.initialSp.toNat → Completes .syscall s fun t => t.heapPtr.toNat = new
            ∧ (∀ q, t.getX q = if q = 2 then s.heapPtr else s.getX q) ∧ OnlyChanges [.x, .heap] s t)

/-- O57. With $v0 = 10 or 17: run becomes Halted with exit code 0 or s($a0), no fault; when show_icount is set the
output grows by a newline, the text (its bytes by log 27) and the decimal N, where N is icount or, when the exit
call is not counted, icount - 1 (icount is at least 1 while an instruction executes); otherwise the output is
unchanged. Nothing else changes. (R281, R319) -/
def Obligations.ExitServicesHaltTheRun : Prop :=
  ∀ s : State, (s.getX 2).toInt = 10 ∨ (s.getX 2).toInt = 17 → 1 ≤ s.icount → s.fault = none →
    Completes .syscall s fun t => t.run = .halted ∧ t.fault = none
      ∧ t.exitCode = some (if (s.getX 2).toInt = 10 then 0 else (s.getX 4).toInt)
      ∧ (s.cfg.showIcount = true → ∃ ds,
          IsDecimal ds (if s.cfg.icountIncludesExit then (s.icount : Int) else (s.icount : Int) - 1)
            ∧ t.out = s.out ++ [.bytes (asciiBytes "\nInstruction count: " ++ ds)])
      ∧ (s.cfg.showIcount = false → t.out = s.out)
      ∧ OnlyChanges [.run, .out] s t

/-- O58. With $v0 = 30 the u($a1) bytes from $a0 on are recorded with their first address when all are readable,
else MemoryOutOfBounds is raised and nothing is output; with 31 the registers, with 32 the file table is recorded
(the texts are open, logs 12 and 29; that the addresses of the dump wrap modulo 2^32 is the model's reading, log
16). Nothing else changes. (R283, R284, R285) -/
def Obligations.DumpServicesRecordWhatTheyShow : Prop :=
  ∀ s : State,
    ((s.getX 2).toInt = 30 →
        ((∀ k < (s.getX 5).toNat, s.readAdmitted (s.getX 4 + BitVec.ofNat 32 k).toNat 1 = true) →
            Completes .syscall s fun t => ∃ bs : List Byte, Outputs s t [.memDump (s.getX 4) bs]
              ∧ bs.length = (s.getX 5).toNat
              ∧ ∀ k (h : k < bs.length), bs[k] = s.byteAt (s.getX 4 + BitVec.ofNat 32 k).toNat)
          ∧ ((∃ k < (s.getX 5).toNat, s.readAdmitted (s.getX 4 + BitVec.ofNat 32 k).toNat 1 = false) →
            Completes .syscall s fun t => ∃ b, Raises s t .memoryOutOfBounds (some b)))
      ∧ ((s.getX 2).toInt = 31 → Completes .syscall s fun t => ∃ d, Outputs s t [.regDump d]
        ∧ (∀ r : Reg, d.x[r] = s.getX r) ∧ (∀ r : FReg, d.f[r] = s.getF r) ∧ d.hi = s.hi ∧ d.lo = s.lo
        ∧ d.pc = s.pc ∧ ∀ k : CC, d.cc[k] = s.getCC k)
      ∧ ((s.getX 2).toInt = 32 → Completes .syscall s fun t => Outputs s t [.dumpFiles s.files])

/-- O59. With $v0 = 40 the generator state becomes a function of $a0 alone, so that equal seeds give equal draws;
with 41 a Word that depends on it alone goes to RAND_DEST; with 42 a number in [0, $a1] does, which with the next
generator state is a function of the generator and $a1 alone, and a negative $a1 raises InvalidArgument. Only
RAND_DEST and the generator change. The generator is uninterpreted, in the model's form of log 10. (R289, R290,
R292) -/
def Obligations.RandomServicesUseOnlyTheGenerator : Prop :=
  (∀ s : State, (s.getX 2).toInt = 40 → Completes .syscall s fun t =>
      t.gen = Config.seedG (s.getX 4) ∧ OnlyChanges [.gen] s t)
    ∧ (∀ s : State, (s.getX 2).toInt = 41 → Completes .syscall s fun t =>
      (∀ q, t.getX q = if q = (if s.cfg.randDest = .v0 then 2 else 4) then (Config.nextG s.gen).1 else s.getX q)
        ∧ t.gen = (Config.nextG s.gen).2 ∧ OnlyChanges [.x, .gen] s t)
    ∧ (∀ s : State, (s.getX 2).toInt = 42 →
      ((s.getX 5).toInt < 0 → Completes .syscall s fun t => Raises s t .invalidArgument none)
        ∧ (0 ≤ (s.getX 5).toInt → Completes .syscall s fun t =>
          ((rangeG s.gen (s.getX 5).toNat).1 : Int) ≤ (s.getX 5).toInt
            ∧ (∀ q, t.getX q = if q = (if s.cfg.randDest = .v0 then 2 else 4)
                then W (rangeG s.gen (s.getX 5).toNat).1 else s.getX q)
            ∧ t.gen = (rangeG s.gen (s.getX 5).toNat).2 ∧ OnlyChanges [.x, .gen] s t))
    ∧ (∀ s s' t t' u u' : State, (s.getX 2).toInt = 40 → (s'.getX 2).toInt = 40 → s.getX 4 = s'.getX 4 →
      exec .syscall s = .next t → exec .syscall s' = .next t' → t.cfg.randDest = t'.cfg.randDest →
      exec .syscall (t.setX 2 41) = .next u → exec .syscall (t'.setX 2 41) = .next u' →
      u.getX (RandDest.reg u.cfg.randDest) = u'.getX (RandDest.reg u'.cfg.randDest))

/-- O60. For every state, register name (the integer and floating-point registers, hi, lo, pc and the eight flags)
and value: after set_register the named register reads the value ($zero still 0), every other named register reads
as before, and nothing that is no register changes; an even pair set with wide=true reads back as the same double,
an odd one is no pair. (R11, R24, R28, R340) -/
def Obligations.HostRegisterAccessReadsBackWhatItWrites : Prop :=
  ∀ (s : State) (d : DWord),
    (∀ (n : RegName) (v : n.Value),
        (n ≠ .x 0 → (s.setRegister n v).getRegister n = v)
          ∧ (∀ m, m ≠ n ∨ n = .x 0 → (s.setRegister n v).getRegister m = s.getRegister m)
          ∧ OnlyChanges [.x, .f, .hiLo, .pc, .flags] s (s.setRegister n v))
      ∧ ∀ r : FReg, (r.val % 2 = 0 → ∃ t, s.setWide r d = some t ∧ t.getWide r = some d)
        ∧ (r.val % 2 = 1 → s.setWide r d = none ∧ s.getWide r = none)

end
end

