-- ==== Sys2Proof/Laws/State.lean ====
section
/-! SUPPORT. One lemma per field per update of the state, so that no proof unfolds a record update; and what the register
accessors read after each. -/

namespace Sys2Proof.Machine

namespace State

/-! ### Reads depend only on their own fields -/

theorem getX_congr {s t : State} (h : t.x = s.x) (r : Reg) : t.getX r = s.getX r := by simp [getX, h]

theorem getF_congr {s t : State} (h : t.f = s.f) (r : FReg) : t.getF r = s.getF r := by simp [getF, h]

theorem getFD_congr {s t : State} (h : t.f = s.f) (r : FReg) : t.getFD r = s.getFD r := by simp [getFD, getF, h]

theorem getCC_congr {s t : State} (h : t.cc = s.cc) (k : CC) : t.getCC k = s.getCC k := by simp [getCC, h]

theorem inText_congr {s t : State} (hc : t.cfg = s.cfg) (ht : t.text = s.text) (a n : Nat) :
    t.inText a n = s.inText a n := by simp [inText, textEnd, hc, ht]

theorem readAdmitted_congr {s t : State} (hc : t.cfg = s.cfg) (ht : t.text = s.text) (a n : Nat) :
    t.readAdmitted a n = s.readAdmitted a n := by simp [readAdmitted, inText_congr hc ht, hc]

theorem writeAdmitted_congr {s t : State} (hc : t.cfg = s.cfg) (a n : Nat) :
    t.writeAdmitted a n = s.writeAdmitted a n := by simp [writeAdmitted, hc]

theorem textByte_congr {s t : State} (hc : t.cfg = s.cfg) (ht : t.text = s.text) (a : Nat) :
    t.textByte a = s.textByte a := by simp [textByte, inText_congr hc ht, hc, ht]

theorem byteAt_congr {s t : State} (hc : t.cfg = s.cfg) (ht : t.text = s.text) (hm : t.mem = s.mem) (a : Nat) :
    t.byteAt a = s.byteAt a := by simp [byteAt, textByte_congr hc ht, hc, hm]

theorem bytesAt_congr {s t : State} (h : ∀ a, t.byteAt a = s.byteAt a) (n : Nat) :
    ∀ a, t.bytesAt a n = s.bytesAt a n := by
  induction n with
  | zero => intro a; rfl
  | succ n ih => intro a; simp [bytesAt, h, ih]

/-! ### setX -/

@[simp] theorem setX_f (s : State) (r : Reg) (v : Word) : (s.setX r v).f = s.f := by
  unfold setX; split <;> rfl

@[simp] theorem setX_hi (s : State) (r : Reg) (v : Word) : (s.setX r v).hi = s.hi := by
  unfold setX; split <;> rfl

@[simp] theorem setX_lo (s : State) (r : Reg) (v : Word) : (s.setX r v).lo = s.lo := by
  unfold setX; split <;> rfl

@[simp] theorem setX_pc (s : State) (r : Reg) (v : Word) : (s.setX r v).pc = s.pc := by
  unfold setX; split <;> rfl

@[simp] theorem setX_cc (s : State) (r : Reg) (v : Word) : (s.setX r v).cc = s.cc := by
  unfold setX; split <;> rfl

@[simp] theorem setX_mem (s : State) (r : Reg) (v : Word) : (s.setX r v).mem = s.mem := by
  unfold setX; split <;> rfl

@[simp] theorem setX_heapPtr (s : State) (r : Reg) (v : Word) : (s.setX r v).heapPtr = s.heapPtr := by
  unfold setX; split <;> rfl

@[simp] theorem setX_icount (s : State) (r : Reg) (v : Word) : (s.setX r v).icount = s.icount := by
  unfold setX; split <;> rfl

@[simp] theorem setX_run (s : State) (r : Reg) (v : Word) : (s.setX r v).run = s.run := by
  unfold setX; split <;> rfl

@[simp] theorem setX_fault (s : State) (r : Reg) (v : Word) : (s.setX r v).fault = s.fault := by
  unfold setX; split <;> rfl

@[simp] theorem setX_exitCode (s : State) (r : Reg) (v : Word) : (s.setX r v).exitCode = s.exitCode := by
  unfold setX; split <;> rfl

@[simp] theorem setX_cfg (s : State) (r : Reg) (v : Word) : (s.setX r v).cfg = s.cfg := by
  unfold setX; split <;> rfl

@[simp] theorem setX_text (s : State) (r : Reg) (v : Word) : (s.setX r v).text = s.text := by
  unfold setX; split <;> rfl

@[simp] theorem setX_out (s : State) (r : Reg) (v : Word) : (s.setX r v).out = s.out := by
  unfold setX; split <;> rfl

@[simp] theorem setX_input (s : State) (r : Reg) (v : Word) : (s.setX r v).input = s.input := by
  unfold setX; split <;> rfl

@[simp] theorem setX_gen (s : State) (r : Reg) (v : Word) : (s.setX r v).gen = s.gen := by
  unfold setX; split <;> rfl

@[simp] theorem setX_files (s : State) (r : Reg) (v : Word) : (s.setX r v).files = s.files := by
  unfold setX; split <;> rfl

@[simp] theorem setX_draws (s : State) (r : Reg) (v : Word) : (s.setX r v).draws = s.draws := by
  unfold setX; split <;> rfl

@[simp] theorem setX_getF (s : State) (r : Reg) (v : Word) (i : FReg) : (s.setX r v).getF i = s.getF i := getF_congr (by simp) i

@[simp] theorem setX_getFD (s : State) (r : Reg) (v : Word) (i : FReg) : (s.setX r v).getFD i = s.getFD i := getFD_congr (by simp) i

@[simp] theorem setX_getCC (s : State) (r : Reg) (v : Word) (i : CC) : (s.setX r v).getCC i = s.getCC i := getCC_congr (by simp) i

@[simp] theorem setX_byteAt (s : State) (r : Reg) (v : Word) (m : Nat) : (s.setX r v).byteAt m = s.byteAt m :=
  byteAt_congr (by simp) (by simp) (by simp) m

@[simp] theorem setX_readAdmitted (s : State) (r : Reg) (v : Word) (m n : Nat) : (s.setX r v).readAdmitted m n = s.readAdmitted m n :=
  readAdmitted_congr (by simp) (by simp) m n

@[simp] theorem setX_writeAdmitted (s : State) (r : Reg) (v : Word) (m n : Nat) :
    (s.setX r v).writeAdmitted m n = s.writeAdmitted m n := writeAdmitted_congr (by simp) m n

@[simp] theorem getX_zero (s : State) : s.getX 0 = 0 := rfl

theorem getX_setX (s : State) (r q : Reg) (v : Word) :
    (s.setX r v).getX q = if q = r ∧ q ≠ 0 then v else s.getX q := by
  unfold setX getX
  by_cases hr : r = 0
  · subst hr; by_cases hq : q = 0 <;> simp [hq]
  · by_cases hq : q = 0
    · simp [hq]
    · by_cases h : q = r
      · subst h; simp [hq]
      · have : r.val ≠ q.val := fun e => h (Fin.ext e.symm)
        simp [hr, hq, h, this]

@[simp] theorem setX_zero (s : State) (v : Word) : s.setX 0 v = s := rfl

/-! ### setF -/

@[simp] theorem setF_x (s : State) (r : FReg) (v : Word) : (s.setF r v).x = s.x := rfl

@[simp] theorem setF_hi (s : State) (r : FReg) (v : Word) : (s.setF r v).hi = s.hi := rfl

@[simp] theorem setF_lo (s : State) (r : FReg) (v : Word) : (s.setF r v).lo = s.lo := rfl

@[simp] theorem setF_pc (s : State) (r : FReg) (v : Word) : (s.setF r v).pc = s.pc := rfl

@[simp] theorem setF_cc (s : State) (r : FReg) (v : Word) : (s.setF r v).cc = s.cc := rfl

@[simp] theorem setF_mem (s : State) (r : FReg) (v : Word) : (s.setF r v).mem = s.mem := rfl

@[simp] theorem setF_heapPtr (s : State) (r : FReg) (v : Word) : (s.setF r v).heapPtr = s.heapPtr := rfl

@[simp] theorem setF_icount (s : State) (r : FReg) (v : Word) : (s.setF r v).icount = s.icount := rfl

@[simp] theorem setF_run (s : State) (r : FReg) (v : Word) : (s.setF r v).run = s.run := rfl

@[simp] theorem setF_fault (s : State) (r : FReg) (v : Word) : (s.setF r v).fault = s.fault := rfl

@[simp] theorem setF_exitCode (s : State) (r : FReg) (v : Word) : (s.setF r v).exitCode = s.exitCode := rfl

@[simp] theorem setF_cfg (s : State) (r : FReg) (v : Word) : (s.setF r v).cfg = s.cfg := rfl

@[simp] theorem setF_text (s : State) (r : FReg) (v : Word) : (s.setF r v).text = s.text := rfl

@[simp] theorem setF_out (s : State) (r : FReg) (v : Word) : (s.setF r v).out = s.out := rfl

@[simp] theorem setF_input (s : State) (r : FReg) (v : Word) : (s.setF r v).input = s.input := rfl

@[simp] theorem setF_gen (s : State) (r : FReg) (v : Word) : (s.setF r v).gen = s.gen := rfl

@[simp] theorem setF_files (s : State) (r : FReg) (v : Word) : (s.setF r v).files = s.files := rfl

@[simp] theorem setF_draws (s : State) (r : FReg) (v : Word) : (s.setF r v).draws = s.draws := rfl

@[simp] theorem setF_getX (s : State) (r : FReg) (v : Word) (i : Reg) : (s.setF r v).getX i = s.getX i := getX_congr (by simp) i

@[simp] theorem setF_getCC (s : State) (r : FReg) (v : Word) (i : CC) : (s.setF r v).getCC i = s.getCC i := getCC_congr (by simp) i

@[simp] theorem setF_byteAt (s : State) (r : FReg) (v : Word) (m : Nat) : (s.setF r v).byteAt m = s.byteAt m :=
  byteAt_congr (by simp) (by simp) (by simp) m

@[simp] theorem setF_readAdmitted (s : State) (r : FReg) (v : Word) (m n : Nat) : (s.setF r v).readAdmitted m n = s.readAdmitted m n :=
  readAdmitted_congr (by simp) (by simp) m n

@[simp] theorem setF_writeAdmitted (s : State) (r : FReg) (v : Word) (m n : Nat) :
    (s.setF r v).writeAdmitted m n = s.writeAdmitted m n := writeAdmitted_congr (by simp) m n

theorem getF_setF (s : State) (r q : FReg) (v : Word) :
    (s.setF r v).getF q = if q = r then v else s.getF q := by
  unfold setF getF
  by_cases h : q = r
  · subst h; simp
  · have : r.val ≠ q.val := fun e => h (Fin.ext e.symm)
    simp [h, this]

/-! ### setFD -/

@[simp] theorem setFD_x (s : State) (r : FReg) (v : DWord) : (s.setFD r v).x = s.x := rfl

@[simp] theorem setFD_hi (s : State) (r : FReg) (v : DWord) : (s.setFD r v).hi = s.hi := rfl

@[simp] theorem setFD_lo (s : State) (r : FReg) (v : DWord) : (s.setFD r v).lo = s.lo := rfl

@[simp] theorem setFD_pc (s : State) (r : FReg) (v : DWord) : (s.setFD r v).pc = s.pc := rfl

@[simp] theorem setFD_cc (s : State) (r : FReg) (v : DWord) : (s.setFD r v).cc = s.cc := rfl

@[simp] theorem setFD_mem (s : State) (r : FReg) (v : DWord) : (s.setFD r v).mem = s.mem := rfl

@[simp] theorem setFD_heapPtr (s : State) (r : FReg) (v : DWord) : (s.setFD r v).heapPtr = s.heapPtr := rfl

@[simp] theorem setFD_icount (s : State) (r : FReg) (v : DWord) : (s.setFD r v).icount = s.icount := rfl

@[simp] theorem setFD_run (s : State) (r : FReg) (v : DWord) : (s.setFD r v).run = s.run := rfl

@[simp] theorem setFD_fault (s : State) (r : FReg) (v : DWord) : (s.setFD r v).fault = s.fault := rfl

@[simp] theorem setFD_exitCode (s : State) (r : FReg) (v : DWord) : (s.setFD r v).exitCode = s.exitCode := rfl

@[simp] theorem setFD_cfg (s : State) (r : FReg) (v : DWord) : (s.setFD r v).cfg = s.cfg := rfl

@[simp] theorem setFD_text (s : State) (r : FReg) (v : DWord) : (s.setFD r v).text = s.text := rfl

@[simp] theorem setFD_out (s : State) (r : FReg) (v : DWord) : (s.setFD r v).out = s.out := rfl

@[simp] theorem setFD_input (s : State) (r : FReg) (v : DWord) : (s.setFD r v).input = s.input := rfl

@[simp] theorem setFD_gen (s : State) (r : FReg) (v : DWord) : (s.setFD r v).gen = s.gen := rfl

@[simp] theorem setFD_files (s : State) (r : FReg) (v : DWord) : (s.setFD r v).files = s.files := rfl

@[simp] theorem setFD_draws (s : State) (r : FReg) (v : DWord) : (s.setFD r v).draws = s.draws := rfl

@[simp] theorem setFD_getX (s : State) (r : FReg) (v : DWord) (i : Reg) : (s.setFD r v).getX i = s.getX i := getX_congr (by simp) i

@[simp] theorem setFD_getCC (s : State) (r : FReg) (v : DWord) (i : CC) : (s.setFD r v).getCC i = s.getCC i := getCC_congr (by simp) i

@[simp] theorem setFD_byteAt (s : State) (r : FReg) (v : DWord) (m : Nat) : (s.setFD r v).byteAt m = s.byteAt m :=
  byteAt_congr (by simp) (by simp) (by simp) m

@[simp] theorem setFD_readAdmitted (s : State) (r : FReg) (v : DWord) (m n : Nat) : (s.setFD r v).readAdmitted m n = s.readAdmitted m n :=
  readAdmitted_congr (by simp) (by simp) m n

@[simp] theorem setFD_writeAdmitted (s : State) (r : FReg) (v : DWord) (m n : Nat) :
    (s.setFD r v).writeAdmitted m n = s.writeAdmitted m n := writeAdmitted_congr (by simp) m n

theorem succ_ne (r : FReg) : r + 1 ≠ r := by
  intro h; have := congrArg Fin.val h; simp [Fin.val_add] at this; omega

theorem getF_setFD (s : State) (r q : FReg) (v : DWord) :
    (s.setFD r v).getF q
      = if q = r then v.extractLsb' 0 32 else if q = r + 1 then v.extractLsb' 32 32 else s.getF q := by
  simp only [setFD, getF_setF]
  by_cases h : q = r
  · subst h; simp [(succ_ne q).symm]
  · simp [h]

theorem getFD_setFD (s : State) (r : FReg) (v : DWord) : (s.setFD r v).getFD r = v := by
  simp only [getFD, getF_setFD, succ_ne, if_true, if_false]
  apply BitVec.eq_of_getLsbD_eq
  intro i hi
  rw [BitVec.getLsbD_append, BitVec.getLsbD_extractLsb', BitVec.getLsbD_extractLsb']
  by_cases h : i < 32
  · simp [h]
  · simp only [h, decide_false]
    rw [show 32 + (i - 32) = i by omega]
    simp [show i - 32 < 32 by omega]

/-! ### setHiLo -/

@[simp] theorem setHiLo_x (s : State) (v : DWord) : (s.setHiLo v).x = s.x := rfl

@[simp] theorem setHiLo_f (s : State) (v : DWord) : (s.setHiLo v).f = s.f := rfl

@[simp] theorem setHiLo_pc (s : State) (v : DWord) : (s.setHiLo v).pc = s.pc := rfl

@[simp] theorem setHiLo_cc (s : State) (v : DWord) : (s.setHiLo v).cc = s.cc := rfl

@[simp] theorem setHiLo_mem (s : State) (v : DWord) : (s.setHiLo v).mem = s.mem := rfl

@[simp] theorem setHiLo_heapPtr (s : State) (v : DWord) : (s.setHiLo v).heapPtr = s.heapPtr := rfl

@[simp] theorem setHiLo_icount (s : State) (v : DWord) : (s.setHiLo v).icount = s.icount := rfl

@[simp] theorem setHiLo_run (s : State) (v : DWord) : (s.setHiLo v).run = s.run := rfl

@[simp] theorem setHiLo_fault (s : State) (v : DWord) : (s.setHiLo v).fault = s.fault := rfl

@[simp] theorem setHiLo_exitCode (s : State) (v : DWord) : (s.setHiLo v).exitCode = s.exitCode := rfl

@[simp] theorem setHiLo_cfg (s : State) (v : DWord) : (s.setHiLo v).cfg = s.cfg := rfl

@[simp] theorem setHiLo_text (s : State) (v : DWord) : (s.setHiLo v).text = s.text := rfl

@[simp] theorem setHiLo_out (s : State) (v : DWord) : (s.setHiLo v).out = s.out := rfl

@[simp] theorem setHiLo_input (s : State) (v : DWord) : (s.setHiLo v).input = s.input := rfl

@[simp] theorem setHiLo_gen (s : State) (v : DWord) : (s.setHiLo v).gen = s.gen := rfl

@[simp] theorem setHiLo_files (s : State) (v : DWord) : (s.setHiLo v).files = s.files := rfl

@[simp] theorem setHiLo_draws (s : State) (v : DWord) : (s.setHiLo v).draws = s.draws := rfl

@[simp] theorem setHiLo_getX (s : State) (v : DWord) (i : Reg) : (s.setHiLo v).getX i = s.getX i := getX_congr (by simp) i

@[simp] theorem setHiLo_getF (s : State) (v : DWord) (i : FReg) : (s.setHiLo v).getF i = s.getF i := getF_congr (by simp) i

@[simp] theorem setHiLo_getFD (s : State) (v : DWord) (i : FReg) : (s.setHiLo v).getFD i = s.getFD i := getFD_congr (by simp) i

@[simp] theorem setHiLo_getCC (s : State) (v : DWord) (i : CC) : (s.setHiLo v).getCC i = s.getCC i := getCC_congr (by simp) i

@[simp] theorem setHiLo_byteAt (s : State) (v : DWord) (m : Nat) : (s.setHiLo v).byteAt m = s.byteAt m :=
  byteAt_congr (by simp) (by simp) (by simp) m

@[simp] theorem setHiLo_readAdmitted (s : State) (v : DWord) (m n : Nat) : (s.setHiLo v).readAdmitted m n = s.readAdmitted m n :=
  readAdmitted_congr (by simp) (by simp) m n

@[simp] theorem setHiLo_writeAdmitted (s : State) (v : DWord) (m n : Nat) :
    (s.setHiLo v).writeAdmitted m n = s.writeAdmitted m n := writeAdmitted_congr (by simp) m n

@[simp] theorem setHiLo_hi (s : State) (v : DWord) : (s.setHiLo v).hi = v.extractLsb' 32 32 := rfl

@[simp] theorem setHiLo_lo (s : State) (v : DWord) : (s.setHiLo v).lo = v.extractLsb' 0 32 := rfl

/-! ### putDivision -/

@[simp] theorem putDivision_x (s : State) (q r : Int) : (s.putDivision q r).x = s.x := rfl

@[simp] theorem putDivision_f (s : State) (q r : Int) : (s.putDivision q r).f = s.f := rfl

@[simp] theorem putDivision_pc (s : State) (q r : Int) : (s.putDivision q r).pc = s.pc := rfl

@[simp] theorem putDivision_cc (s : State) (q r : Int) : (s.putDivision q r).cc = s.cc := rfl

@[simp] theorem putDivision_mem (s : State) (q r : Int) : (s.putDivision q r).mem = s.mem := rfl

@[simp] theorem putDivision_heapPtr (s : State) (q r : Int) : (s.putDivision q r).heapPtr = s.heapPtr := rfl

@[simp] theorem putDivision_icount (s : State) (q r : Int) : (s.putDivision q r).icount = s.icount := rfl

@[simp] theorem putDivision_run (s : State) (q r : Int) : (s.putDivision q r).run = s.run := rfl

@[simp] theorem putDivision_fault (s : State) (q r : Int) : (s.putDivision q r).fault = s.fault := rfl

@[simp] theorem putDivision_exitCode (s : State) (q r : Int) : (s.putDivision q r).exitCode = s.exitCode := rfl

@[simp] theorem putDivision_cfg (s : State) (q r : Int) : (s.putDivision q r).cfg = s.cfg := rfl

@[simp] theorem putDivision_text (s : State) (q r : Int) : (s.putDivision q r).text = s.text := rfl

@[simp] theorem putDivision_out (s : State) (q r : Int) : (s.putDivision q r).out = s.out := rfl

@[simp] theorem putDivision_input (s : State) (q r : Int) : (s.putDivision q r).input = s.input := rfl

@[simp] theorem putDivision_gen (s : State) (q r : Int) : (s.putDivision q r).gen = s.gen := rfl

@[simp] theorem putDivision_files (s : State) (q r : Int) : (s.putDivision q r).files = s.files := rfl

@[simp] theorem putDivision_draws (s : State) (q r : Int) : (s.putDivision q r).draws = s.draws := rfl

@[simp] theorem putDivision_getX (s : State) (q r : Int) (i : Reg) : (s.putDivision q r).getX i = s.getX i := getX_congr (by simp) i

@[simp] theorem putDivision_getF (s : State) (q r : Int) (i : FReg) : (s.putDivision q r).getF i = s.getF i := getF_congr (by simp) i

@[simp] theorem putDivision_getFD (s : State) (q r : Int) (i : FReg) : (s.putDivision q r).getFD i = s.getFD i := getFD_congr (by simp) i

@[simp] theorem putDivision_getCC (s : State) (q r : Int) (i : CC) : (s.putDivision q r).getCC i = s.getCC i := getCC_congr (by simp) i

@[simp] theorem putDivision_byteAt (s : State) (q r : Int) (m : Nat) : (s.putDivision q r).byteAt m = s.byteAt m :=
  byteAt_congr (by simp) (by simp) (by simp) m

@[simp] theorem putDivision_readAdmitted (s : State) (q r : Int) (m n : Nat) : (s.putDivision q r).readAdmitted m n = s.readAdmitted m n :=
  readAdmitted_congr (by simp) (by simp) m n

@[simp] theorem putDivision_writeAdmitted (s : State) (q r : Int) (m n : Nat) :
    (s.putDivision q r).writeAdmitted m n = s.writeAdmitted m n := writeAdmitted_congr (by simp) m n

@[simp] theorem putDivision_hi (s : State) (q r : Int) : (s.putDivision q r).hi = W r := rfl

@[simp] theorem putDivision_lo (s : State) (q r : Int) : (s.putDivision q r).lo = W q := rfl

/-! ### setPc -/

@[simp] theorem setPc_x (s : State) (a : Word) : (s.setPc a).x = s.x := rfl

@[simp] theorem setPc_f (s : State) (a : Word) : (s.setPc a).f = s.f := rfl

@[simp] theorem setPc_hi (s : State) (a : Word) : (s.setPc a).hi = s.hi := rfl

@[simp] theorem setPc_lo (s : State) (a : Word) : (s.setPc a).lo = s.lo := rfl

@[simp] theorem setPc_cc (s : State) (a : Word) : (s.setPc a).cc = s.cc := rfl

@[simp] theorem setPc_mem (s : State) (a : Word) : (s.setPc a).mem = s.mem := rfl

@[simp] theorem setPc_heapPtr (s : State) (a : Word) : (s.setPc a).heapPtr = s.heapPtr := rfl

@[simp] theorem setPc_icount (s : State) (a : Word) : (s.setPc a).icount = s.icount := rfl

@[simp] theorem setPc_run (s : State) (a : Word) : (s.setPc a).run = s.run := rfl

@[simp] theorem setPc_fault (s : State) (a : Word) : (s.setPc a).fault = s.fault := rfl

@[simp] theorem setPc_exitCode (s : State) (a : Word) : (s.setPc a).exitCode = s.exitCode := rfl

@[simp] theorem setPc_cfg (s : State) (a : Word) : (s.setPc a).cfg = s.cfg := rfl

@[simp] theorem setPc_text (s : State) (a : Word) : (s.setPc a).text = s.text := rfl

@[simp] theorem setPc_out (s : State) (a : Word) : (s.setPc a).out = s.out := rfl

@[simp] theorem setPc_input (s : State) (a : Word) : (s.setPc a).input = s.input := rfl

@[simp] theorem setPc_gen (s : State) (a : Word) : (s.setPc a).gen = s.gen := rfl

@[simp] theorem setPc_files (s : State) (a : Word) : (s.setPc a).files = s.files := rfl

@[simp] theorem setPc_draws (s : State) (a : Word) : (s.setPc a).draws = s.draws := rfl

@[simp] theorem setPc_getX (s : State) (a : Word) (i : Reg) : (s.setPc a).getX i = s.getX i := getX_congr (by simp) i

@[simp] theorem setPc_getF (s : State) (a : Word) (i : FReg) : (s.setPc a).getF i = s.getF i := getF_congr (by simp) i

@[simp] theorem setPc_getFD (s : State) (a : Word) (i : FReg) : (s.setPc a).getFD i = s.getFD i := getFD_congr (by simp) i

@[simp] theorem setPc_getCC (s : State) (a : Word) (i : CC) : (s.setPc a).getCC i = s.getCC i := getCC_congr (by simp) i

@[simp] theorem setPc_byteAt (s : State) (a : Word) (m : Nat) : (s.setPc a).byteAt m = s.byteAt m :=
  byteAt_congr (by simp) (by simp) (by simp) m

@[simp] theorem setPc_readAdmitted (s : State) (a : Word) (m n : Nat) : (s.setPc a).readAdmitted m n = s.readAdmitted m n :=
  readAdmitted_congr (by simp) (by simp) m n

@[simp] theorem setPc_writeAdmitted (s : State) (a : Word) (m n : Nat) :
    (s.setPc a).writeAdmitted m n = s.writeAdmitted m n := writeAdmitted_congr (by simp) m n

@[simp] theorem setPc_pc (s : State) (a : Word) : (s.setPc a).pc = a := rfl

/-! ### setCC -/

@[simp] theorem setCC_x (s : State) (k : CC) (b : Bool) : (s.setCC k b).x = s.x := rfl

@[simp] theorem setCC_f (s : State) (k : CC) (b : Bool) : (s.setCC k b).f = s.f := rfl

@[simp] theorem setCC_hi (s : State) (k : CC) (b : Bool) : (s.setCC k b).hi = s.hi := rfl

@[simp] theorem setCC_lo (s : State) (k : CC) (b : Bool) : (s.setCC k b).lo = s.lo := rfl

@[simp] theorem setCC_pc (s : State) (k : CC) (b : Bool) : (s.setCC k b).pc = s.pc := rfl

@[simp] theorem setCC_mem (s : State) (k : CC) (b : Bool) : (s.setCC k b).mem = s.mem := rfl

@[simp] theorem setCC_heapPtr (s : State) (k : CC) (b : Bool) : (s.setCC k b).heapPtr = s.heapPtr := rfl

@[simp] theorem setCC_icount (s : State) (k : CC) (b : Bool) : (s.setCC k b).icount = s.icount := rfl

@[simp] theorem setCC_run (s : State) (k : CC) (b : Bool) : (s.setCC k b).run = s.run := rfl

@[simp] theorem setCC_fault (s : State) (k : CC) (b : Bool) : (s.setCC k b).fault = s.fault := rfl

@[simp] theorem setCC_exitCode (s : State) (k : CC) (b : Bool) : (s.setCC k b).exitCode = s.exitCode := rfl

@[simp] theorem setCC_cfg (s : State) (k : CC) (b : Bool) : (s.setCC k b).cfg = s.cfg := rfl

@[simp] theorem setCC_text (s : State) (k : CC) (b : Bool) : (s.setCC k b).text = s.text := rfl

@[simp] theorem setCC_out (s : State) (k : CC) (b : Bool) : (s.setCC k b).out = s.out := rfl

@[simp] theorem setCC_input (s : State) (k : CC) (b : Bool) : (s.setCC k b).input = s.input := rfl

@[simp] theorem setCC_gen (s : State) (k : CC) (b : Bool) : (s.setCC k b).gen = s.gen := rfl

@[simp] theorem setCC_files (s : State) (k : CC) (b : Bool) : (s.setCC k b).files = s.files := rfl

@[simp] theorem setCC_draws (s : State) (k : CC) (b : Bool) : (s.setCC k b).draws = s.draws := rfl

@[simp] theorem setCC_getX (s : State) (k : CC) (b : Bool) (i : Reg) : (s.setCC k b).getX i = s.getX i := getX_congr (by simp) i

@[simp] theorem setCC_getF (s : State) (k : CC) (b : Bool) (i : FReg) : (s.setCC k b).getF i = s.getF i := getF_congr (by simp) i

@[simp] theorem setCC_getFD (s : State) (k : CC) (b : Bool) (i : FReg) : (s.setCC k b).getFD i = s.getFD i := getFD_congr (by simp) i

@[simp] theorem setCC_byteAt (s : State) (k : CC) (b : Bool) (m : Nat) : (s.setCC k b).byteAt m = s.byteAt m :=
  byteAt_congr (by simp) (by simp) (by simp) m

@[simp] theorem setCC_readAdmitted (s : State) (k : CC) (b : Bool) (m n : Nat) : (s.setCC k b).readAdmitted m n = s.readAdmitted m n :=
  readAdmitted_congr (by simp) (by simp) m n

@[simp] theorem setCC_writeAdmitted (s : State) (k : CC) (b : Bool) (m n : Nat) :
    (s.setCC k b).writeAdmitted m n = s.writeAdmitted m n := writeAdmitted_congr (by simp) m n

theorem getCC_setCC (s : State) (k j : CC) (b : Bool) :
    (s.setCC k b).getCC j = if j = k then b else s.getCC j := by
  unfold setCC getCC
  by_cases h : j = k
  · subst h; simp
  · have : k.val ≠ j.val := fun e => h (Fin.ext e.symm)
    simp [h, this]

/-! ### enterFaulted -/

@[simp] theorem enterFaulted_x (s : State) (r : FaultRecord) : (s.enterFaulted r).x = s.x := rfl

@[simp] theorem enterFaulted_f (s : State) (r : FaultRecord) : (s.enterFaulted r).f = s.f := rfl

@[simp] theorem enterFaulted_hi (s : State) (r : FaultRecord) : (s.enterFaulted r).hi = s.hi := rfl

@[simp] theorem enterFaulted_lo (s : State) (r : FaultRecord) : (s.enterFaulted r).lo = s.lo := rfl

@[simp] theorem enterFaulted_pc (s : State) (r : FaultRecord) : (s.enterFaulted r).pc = s.pc := rfl

@[simp] theorem enterFaulted_cc (s : State) (r : FaultRecord) : (s.enterFaulted r).cc = s.cc := rfl

@[simp] theorem enterFaulted_mem (s : State) (r : FaultRecord) : (s.enterFaulted r).mem = s.mem := rfl

@[simp] theorem enterFaulted_heapPtr (s : State) (r : FaultRecord) : (s.enterFaulted r).heapPtr = s.heapPtr := rfl

@[simp] theorem enterFaulted_icount (s : State) (r : FaultRecord) : (s.enterFaulted r).icount = s.icount := rfl

@[simp] theorem enterFaulted_exitCode (s : State) (r : FaultRecord) : (s.enterFaulted r).exitCode = s.exitCode := rfl

@[simp] theorem enterFaulted_cfg (s : State) (r : FaultRecord) : (s.enterFaulted r).cfg = s.cfg := rfl

@[simp] theorem enterFaulted_text (s : State) (r : FaultRecord) : (s.enterFaulted r).text = s.text := rfl

@[simp] theorem enterFaulted_out (s : State) (r : FaultRecord) : (s.enterFaulted r).out = s.out := rfl

@[simp] theorem enterFaulted_input (s : State) (r : FaultRecord) : (s.enterFaulted r).input = s.input := rfl

@[simp] theorem enterFaulted_gen (s : State) (r : FaultRecord) : (s.enterFaulted r).gen = s.gen := rfl

@[simp] theorem enterFaulted_files (s : State) (r : FaultRecord) : (s.enterFaulted r).files = s.files := rfl

@[simp] theorem enterFaulted_draws (s : State) (r : FaultRecord) : (s.enterFaulted r).draws = s.draws := rfl

@[simp] theorem enterFaulted_getX (s : State) (r : FaultRecord) (i : Reg) : (s.enterFaulted r).getX i = s.getX i := getX_congr (by simp) i

@[simp] theorem enterFaulted_getF (s : State) (r : FaultRecord) (i : FReg) : (s.enterFaulted r).getF i = s.getF i := getF_congr (by simp) i

@[simp] theorem enterFaulted_getFD (s : State) (r : FaultRecord) (i : FReg) : (s.enterFaulted r).getFD i = s.getFD i := getFD_congr (by simp) i

@[simp] theorem enterFaulted_getCC (s : State) (r : FaultRecord) (i : CC) : (s.enterFaulted r).getCC i = s.getCC i := getCC_congr (by simp) i

@[simp] theorem enterFaulted_byteAt (s : State) (r : FaultRecord) (m : Nat) : (s.enterFaulted r).byteAt m = s.byteAt m :=
  byteAt_congr (by simp) (by simp) (by simp) m

@[simp] theorem enterFaulted_readAdmitted (s : State) (r : FaultRecord) (m n : Nat) : (s.enterFaulted r).readAdmitted m n = s.readAdmitted m n :=
  readAdmitted_congr (by simp) (by simp) m n

@[simp] theorem enterFaulted_writeAdmitted (s : State) (r : FaultRecord) (m n : Nat) :
    (s.enterFaulted r).writeAdmitted m n = s.writeAdmitted m n := writeAdmitted_congr (by simp) m n

@[simp] theorem enterFaulted_run (s : State) (r : FaultRecord) : (s.enterFaulted r).run = .faulted := rfl

@[simp] theorem enterFaulted_fault (s : State) (r : FaultRecord) : (s.enterFaulted r).fault = some r := rfl

/-! ### takeReserved -/

@[simp] theorem takeReserved_x (s : State) (w : Word) : (s.takeReserved w).x = s.x := rfl

@[simp] theorem takeReserved_f (s : State) (w : Word) : (s.takeReserved w).f = s.f := rfl

@[simp] theorem takeReserved_hi (s : State) (w : Word) : (s.takeReserved w).hi = s.hi := rfl

@[simp] theorem takeReserved_lo (s : State) (w : Word) : (s.takeReserved w).lo = s.lo := rfl

@[simp] theorem takeReserved_pc (s : State) (w : Word) : (s.takeReserved w).pc = s.pc := rfl

@[simp] theorem takeReserved_cc (s : State) (w : Word) : (s.takeReserved w).cc = s.cc := rfl

@[simp] theorem takeReserved_mem (s : State) (w : Word) : (s.takeReserved w).mem = s.mem := rfl

@[simp] theorem takeReserved_heapPtr (s : State) (w : Word) : (s.takeReserved w).heapPtr = s.heapPtr := rfl

@[simp] theorem takeReserved_icount (s : State) (w : Word) : (s.takeReserved w).icount = s.icount := rfl

@[simp] theorem takeReserved_exitCode (s : State) (w : Word) : (s.takeReserved w).exitCode = s.exitCode := rfl

@[simp] theorem takeReserved_cfg (s : State) (w : Word) : (s.takeReserved w).cfg = s.cfg := rfl

@[simp] theorem takeReserved_text (s : State) (w : Word) : (s.takeReserved w).text = s.text := rfl

@[simp] theorem takeReserved_out (s : State) (w : Word) : (s.takeReserved w).out = s.out := rfl

@[simp] theorem takeReserved_input (s : State) (w : Word) : (s.takeReserved w).input = s.input := rfl

@[simp] theorem takeReserved_gen (s : State) (w : Word) : (s.takeReserved w).gen = s.gen := rfl

@[simp] theorem takeReserved_files (s : State) (w : Word) : (s.takeReserved w).files = s.files := rfl

@[simp] theorem takeReserved_draws (s : State) (w : Word) : (s.takeReserved w).draws = s.draws := rfl

@[simp] theorem takeReserved_getX (s : State) (w : Word) (i : Reg) : (s.takeReserved w).getX i = s.getX i := getX_congr (by simp) i

@[simp] theorem takeReserved_getF (s : State) (w : Word) (i : FReg) : (s.takeReserved w).getF i = s.getF i := getF_congr (by simp) i

@[simp] theorem takeReserved_getFD (s : State) (w : Word) (i : FReg) : (s.takeReserved w).getFD i = s.getFD i := getFD_congr (by simp) i

@[simp] theorem takeReserved_getCC (s : State) (w : Word) (i : CC) : (s.takeReserved w).getCC i = s.getCC i := getCC_congr (by simp) i

@[simp] theorem takeReserved_byteAt (s : State) (w : Word) (m : Nat) : (s.takeReserved w).byteAt m = s.byteAt m :=
  byteAt_congr (by simp) (by simp) (by simp) m

@[simp] theorem takeReserved_readAdmitted (s : State) (w : Word) (m n : Nat) : (s.takeReserved w).readAdmitted m n = s.readAdmitted m n :=
  readAdmitted_congr (by simp) (by simp) m n

@[simp] theorem takeReserved_writeAdmitted (s : State) (w : Word) (m n : Nat) :
    (s.takeReserved w).writeAdmitted m n = s.writeAdmitted m n := writeAdmitted_congr (by simp) m n

@[simp] theorem takeReserved_run (s : State) (w : Word) : (s.takeReserved w).run = .faulted := rfl

@[simp] theorem takeReserved_fault (s : State) (w : Word) :
    (s.takeReserved w).fault
      = some { kind := .reservedInstruction, addr := s.pc - 4, badAddress := none, word := some w } := rfl

/-! ### takeFaultAt -/

@[simp] theorem takeFaultAt_x (s : State) (a : Word) (r : Raise) : (s.takeFaultAt a r).x = s.x := rfl

@[simp] theorem takeFaultAt_f (s : State) (a : Word) (r : Raise) : (s.takeFaultAt a r).f = s.f := rfl

@[simp] theorem takeFaultAt_hi (s : State) (a : Word) (r : Raise) : (s.takeFaultAt a r).hi = s.hi := rfl

@[simp] theorem takeFaultAt_lo (s : State) (a : Word) (r : Raise) : (s.takeFaultAt a r).lo = s.lo := rfl

@[simp] theorem takeFaultAt_pc (s : State) (a : Word) (r : Raise) : (s.takeFaultAt a r).pc = s.pc := rfl

@[simp] theorem takeFaultAt_cc (s : State) (a : Word) (r : Raise) : (s.takeFaultAt a r).cc = s.cc := rfl

@[simp] theorem takeFaultAt_mem (s : State) (a : Word) (r : Raise) : (s.takeFaultAt a r).mem = s.mem := rfl

@[simp] theorem takeFaultAt_heapPtr (s : State) (a : Word) (r : Raise) : (s.takeFaultAt a r).heapPtr = s.heapPtr := rfl

@[simp] theorem takeFaultAt_icount (s : State) (a : Word) (r : Raise) : (s.takeFaultAt a r).icount = s.icount := rfl

@[simp] theorem takeFaultAt_exitCode (s : State) (a : Word) (r : Raise) : (s.takeFaultAt a r).exitCode = s.exitCode := rfl

@[simp] theorem takeFaultAt_cfg (s : State) (a : Word) (r : Raise) : (s.takeFaultAt a r).cfg = s.cfg := rfl

@[simp] theorem takeFaultAt_text (s : State) (a : Word) (r : Raise) : (s.takeFaultAt a r).text = s.text := rfl

@[simp] theorem takeFaultAt_out (s : State) (a : Word) (r : Raise) : (s.takeFaultAt a r).out = s.out := rfl

@[simp] theorem takeFaultAt_input (s : State) (a : Word) (r : Raise) : (s.takeFaultAt a r).input = s.input := rfl

@[simp] theorem takeFaultAt_gen (s : State) (a : Word) (r : Raise) : (s.takeFaultAt a r).gen = s.gen := rfl

@[simp] theorem takeFaultAt_files (s : State) (a : Word) (r : Raise) : (s.takeFaultAt a r).files = s.files := rfl

@[simp] theorem takeFaultAt_draws (s : State) (a : Word) (r : Raise) : (s.takeFaultAt a r).draws = s.draws := rfl

@[simp] theorem takeFaultAt_getX (s : State) (a : Word) (r : Raise) (i : Reg) : (s.takeFaultAt a r).getX i = s.getX i := getX_congr (by simp) i

@[simp] theorem takeFaultAt_getF (s : State) (a : Word) (r : Raise) (i : FReg) : (s.takeFaultAt a r).getF i = s.getF i := getF_congr (by simp) i

@[simp] theorem takeFaultAt_getFD (s : State) (a : Word) (r : Raise) (i : FReg) : (s.takeFaultAt a r).getFD i = s.getFD i := getFD_congr (by simp) i

@[simp] theorem takeFaultAt_getCC (s : State) (a : Word) (r : Raise) (i : CC) : (s.takeFaultAt a r).getCC i = s.getCC i := getCC_congr (by simp) i

@[simp] theorem takeFaultAt_byteAt (s : State) (a : Word) (r : Raise) (m : Nat) : (s.takeFaultAt a r).byteAt m = s.byteAt m :=
  byteAt_congr (by simp) (by simp) (by simp) m

@[simp] theorem takeFaultAt_readAdmitted (s : State) (a : Word) (r : Raise) (m n : Nat) : (s.takeFaultAt a r).readAdmitted m n = s.readAdmitted m n :=
  readAdmitted_congr (by simp) (by simp) m n

@[simp] theorem takeFaultAt_writeAdmitted (s : State) (a : Word) (r : Raise) (m n : Nat) :
    (s.takeFaultAt a r).writeAdmitted m n = s.writeAdmitted m n := writeAdmitted_congr (by simp) m n

@[simp] theorem takeFaultAt_run (s : State) (a : Word) (r : Raise) : (s.takeFaultAt a r).run = .faulted := rfl

@[simp] theorem takeFaultAt_fault (s : State) (a : Word) (r : Raise) :
    (s.takeFaultAt a r).fault = some { kind := r.kind, addr := a, badAddress := r.bad, word := none } := rfl

/-! ### takeFault -/

@[simp] theorem takeFault_x (s : State) (r : Raise) : (s.takeFault r).x = s.x := rfl

@[simp] theorem takeFault_f (s : State) (r : Raise) : (s.takeFault r).f = s.f := rfl

@[simp] theorem takeFault_hi (s : State) (r : Raise) : (s.takeFault r).hi = s.hi := rfl

@[simp] theorem takeFault_lo (s : State) (r : Raise) : (s.takeFault r).lo = s.lo := rfl

@[simp] theorem takeFault_pc (s : State) (r : Raise) : (s.takeFault r).pc = s.pc := rfl

@[simp] theorem takeFault_cc (s : State) (r : Raise) : (s.takeFault r).cc = s.cc := rfl

@[simp] theorem takeFault_mem (s : State) (r : Raise) : (s.takeFault r).mem = s.mem := rfl

@[simp] theorem takeFault_heapPtr (s : State) (r : Raise) : (s.takeFault r).heapPtr = s.heapPtr := rfl

@[simp] theorem takeFault_icount (s : State) (r : Raise) : (s.takeFault r).icount = s.icount := rfl

@[simp] theorem takeFault_exitCode (s : State) (r : Raise) : (s.takeFault r).exitCode = s.exitCode := rfl

@[simp] theorem takeFault_cfg (s : State) (r : Raise) : (s.takeFault r).cfg = s.cfg := rfl

@[simp] theorem takeFault_text (s : State) (r : Raise) : (s.takeFault r).text = s.text := rfl

@[simp] theorem takeFault_out (s : State) (r : Raise) : (s.takeFault r).out = s.out := rfl

@[simp] theorem takeFault_input (s : State) (r : Raise) : (s.takeFault r).input = s.input := rfl

@[simp] theorem takeFault_gen (s : State) (r : Raise) : (s.takeFault r).gen = s.gen := rfl

@[simp] theorem takeFault_files (s : State) (r : Raise) : (s.takeFault r).files = s.files := rfl

@[simp] theorem takeFault_draws (s : State) (r : Raise) : (s.takeFault r).draws = s.draws := rfl

@[simp] theorem takeFault_getX (s : State) (r : Raise) (i : Reg) : (s.takeFault r).getX i = s.getX i := getX_congr (by simp) i

@[simp] theorem takeFault_getF (s : State) (r : Raise) (i : FReg) : (s.takeFault r).getF i = s.getF i := getF_congr (by simp) i

@[simp] theorem takeFault_getFD (s : State) (r : Raise) (i : FReg) : (s.takeFault r).getFD i = s.getFD i := getFD_congr (by simp) i

@[simp] theorem takeFault_getCC (s : State) (r : Raise) (i : CC) : (s.takeFault r).getCC i = s.getCC i := getCC_congr (by simp) i

@[simp] theorem takeFault_byteAt (s : State) (r : Raise) (m : Nat) : (s.takeFault r).byteAt m = s.byteAt m :=
  byteAt_congr (by simp) (by simp) (by simp) m

@[simp] theorem takeFault_readAdmitted (s : State) (r : Raise) (m n : Nat) : (s.takeFault r).readAdmitted m n = s.readAdmitted m n :=
  readAdmitted_congr (by simp) (by simp) m n

@[simp] theorem takeFault_writeAdmitted (s : State) (r : Raise) (m n : Nat) :
    (s.takeFault r).writeAdmitted m n = s.writeAdmitted m n := writeAdmitted_congr (by simp) m n

@[simp] theorem takeFault_run (s : State) (r : Raise) : (s.takeFault r).run = .faulted := rfl

@[simp] theorem takeFault_fault (s : State) (r : Raise) :
    (s.takeFault r).fault = some { kind := r.kind, addr := s.pc - 4, badAddress := r.bad, word := none } := rfl

/-! ### halt -/

@[simp] theorem halt_x (s : State) (c : Int) : (s.halt c).x = s.x := rfl

@[simp] theorem halt_f (s : State) (c : Int) : (s.halt c).f = s.f := rfl

@[simp] theorem halt_hi (s : State) (c : Int) : (s.halt c).hi = s.hi := rfl

@[simp] theorem halt_lo (s : State) (c : Int) : (s.halt c).lo = s.lo := rfl

@[simp] theorem halt_pc (s : State) (c : Int) : (s.halt c).pc = s.pc := rfl

@[simp] theorem halt_cc (s : State) (c : Int) : (s.halt c).cc = s.cc := rfl

@[simp] theorem halt_mem (s : State) (c : Int) : (s.halt c).mem = s.mem := rfl

@[simp] theorem halt_heapPtr (s : State) (c : Int) : (s.halt c).heapPtr = s.heapPtr := rfl

@[simp] theorem halt_icount (s : State) (c : Int) : (s.halt c).icount = s.icount := rfl

@[simp] theorem halt_fault (s : State) (c : Int) : (s.halt c).fault = s.fault := rfl

@[simp] theorem halt_cfg (s : State) (c : Int) : (s.halt c).cfg = s.cfg := rfl

@[simp] theorem halt_text (s : State) (c : Int) : (s.halt c).text = s.text := rfl

@[simp] theorem halt_out (s : State) (c : Int) : (s.halt c).out = s.out := rfl

@[simp] theorem halt_input (s : State) (c : Int) : (s.halt c).input = s.input := rfl

@[simp] theorem halt_gen (s : State) (c : Int) : (s.halt c).gen = s.gen := rfl

@[simp] theorem halt_files (s : State) (c : Int) : (s.halt c).files = s.files := rfl

@[simp] theorem halt_draws (s : State) (c : Int) : (s.halt c).draws = s.draws := rfl

@[simp] theorem halt_getX (s : State) (c : Int) (i : Reg) : (s.halt c).getX i = s.getX i := getX_congr (by simp) i

@[simp] theorem halt_getF (s : State) (c : Int) (i : FReg) : (s.halt c).getF i = s.getF i := getF_congr (by simp) i

@[simp] theorem halt_getFD (s : State) (c : Int) (i : FReg) : (s.halt c).getFD i = s.getFD i := getFD_congr (by simp) i

@[simp] theorem halt_getCC (s : State) (c : Int) (i : CC) : (s.halt c).getCC i = s.getCC i := getCC_congr (by simp) i

@[simp] theorem halt_byteAt (s : State) (c : Int) (m : Nat) : (s.halt c).byteAt m = s.byteAt m :=
  byteAt_congr (by simp) (by simp) (by simp) m

@[simp] theorem halt_readAdmitted (s : State) (c : Int) (m n : Nat) : (s.halt c).readAdmitted m n = s.readAdmitted m n :=
  readAdmitted_congr (by simp) (by simp) m n

@[simp] theorem halt_writeAdmitted (s : State) (c : Int) (m n : Nat) :
    (s.halt c).writeAdmitted m n = s.writeAdmitted m n := writeAdmitted_congr (by simp) m n

@[simp] theorem halt_run (s : State) (c : Int) : (s.halt c).run = .halted := rfl

@[simp] theorem halt_exitCode (s : State) (c : Int) : (s.halt c).exitCode = some c := rfl

/-! ### putBytes -/

@[simp] theorem putBytes_x (s : State) (a : Nat) (bs : List Byte) : (s.putBytes a bs).x = s.x := rfl

@[simp] theorem putBytes_f (s : State) (a : Nat) (bs : List Byte) : (s.putBytes a bs).f = s.f := rfl

@[simp] theorem putBytes_hi (s : State) (a : Nat) (bs : List Byte) : (s.putBytes a bs).hi = s.hi := rfl

@[simp] theorem putBytes_lo (s : State) (a : Nat) (bs : List Byte) : (s.putBytes a bs).lo = s.lo := rfl

@[simp] theorem putBytes_pc (s : State) (a : Nat) (bs : List Byte) : (s.putBytes a bs).pc = s.pc := rfl

@[simp] theorem putBytes_cc (s : State) (a : Nat) (bs : List Byte) : (s.putBytes a bs).cc = s.cc := rfl

@[simp] theorem putBytes_heapPtr (s : State) (a : Nat) (bs : List Byte) : (s.putBytes a bs).heapPtr = s.heapPtr := rfl

@[simp] theorem putBytes_icount (s : State) (a : Nat) (bs : List Byte) : (s.putBytes a bs).icount = s.icount := rfl

@[simp] theorem putBytes_run (s : State) (a : Nat) (bs : List Byte) : (s.putBytes a bs).run = s.run := rfl

@[simp] theorem putBytes_fault (s : State) (a : Nat) (bs : List Byte) : (s.putBytes a bs).fault = s.fault := rfl

@[simp] theorem putBytes_exitCode (s : State) (a : Nat) (bs : List Byte) : (s.putBytes a bs).exitCode = s.exitCode := rfl

@[simp] theorem putBytes_cfg (s : State) (a : Nat) (bs : List Byte) : (s.putBytes a bs).cfg = s.cfg := rfl

@[simp] theorem putBytes_text (s : State) (a : Nat) (bs : List Byte) : (s.putBytes a bs).text = s.text := rfl

@[simp] theorem putBytes_out (s : State) (a : Nat) (bs : List Byte) : (s.putBytes a bs).out = s.out := rfl

@[simp] theorem putBytes_input (s : State) (a : Nat) (bs : List Byte) : (s.putBytes a bs).input = s.input := rfl

@[simp] theorem putBytes_gen (s : State) (a : Nat) (bs : List Byte) : (s.putBytes a bs).gen = s.gen := rfl

@[simp] theorem putBytes_files (s : State) (a : Nat) (bs : List Byte) : (s.putBytes a bs).files = s.files := rfl

@[simp] theorem putBytes_draws (s : State) (a : Nat) (bs : List Byte) : (s.putBytes a bs).draws = s.draws := rfl

@[simp] theorem putBytes_getX (s : State) (a : Nat) (bs : List Byte) (i : Reg) : (s.putBytes a bs).getX i = s.getX i := getX_congr (by simp) i

@[simp] theorem putBytes_getF (s : State) (a : Nat) (bs : List Byte) (i : FReg) : (s.putBytes a bs).getF i = s.getF i := getF_congr (by simp) i

@[simp] theorem putBytes_getFD (s : State) (a : Nat) (bs : List Byte) (i : FReg) : (s.putBytes a bs).getFD i = s.getFD i := getFD_congr (by simp) i

@[simp] theorem putBytes_getCC (s : State) (a : Nat) (bs : List Byte) (i : CC) : (s.putBytes a bs).getCC i = s.getCC i := getCC_congr (by simp) i

@[simp] theorem putBytes_readAdmitted (s : State) (a : Nat) (bs : List Byte) (m n : Nat) : (s.putBytes a bs).readAdmitted m n = s.readAdmitted m n :=
  readAdmitted_congr (by simp) (by simp) m n

@[simp] theorem putBytes_writeAdmitted (s : State) (a : Nat) (bs : List Byte) (m n : Nat) :
    (s.putBytes a bs).writeAdmitted m n = s.writeAdmitted m n := writeAdmitted_congr (by simp) m n

@[simp] theorem putBytes_mem (s : State) (a : Nat) (bs : List Byte) : (s.putBytes a bs).mem = s.mem.setAll a bs := rfl

/-! ### emit -/

@[simp] theorem emit_x (s : State) (e : OutEvent) : (s.emit e).x = s.x := rfl

@[simp] theorem emit_f (s : State) (e : OutEvent) : (s.emit e).f = s.f := rfl

@[simp] theorem emit_hi (s : State) (e : OutEvent) : (s.emit e).hi = s.hi := rfl

@[simp] theorem emit_lo (s : State) (e : OutEvent) : (s.emit e).lo = s.lo := rfl

@[simp] theorem emit_pc (s : State) (e : OutEvent) : (s.emit e).pc = s.pc := rfl

@[simp] theorem emit_cc (s : State) (e : OutEvent) : (s.emit e).cc = s.cc := rfl

@[simp] theorem emit_mem (s : State) (e : OutEvent) : (s.emit e).mem = s.mem := rfl

@[simp] theorem emit_heapPtr (s : State) (e : OutEvent) : (s.emit e).heapPtr = s.heapPtr := rfl

@[simp] theorem emit_icount (s : State) (e : OutEvent) : (s.emit e).icount = s.icount := rfl

@[simp] theorem emit_run (s : State) (e : OutEvent) : (s.emit e).run = s.run := rfl

@[simp] theorem emit_fault (s : State) (e : OutEvent) : (s.emit e).fault = s.fault := rfl

@[simp] theorem emit_exitCode (s : State) (e : OutEvent) : (s.emit e).exitCode = s.exitCode := rfl

@[simp] theorem emit_cfg (s : State) (e : OutEvent) : (s.emit e).cfg = s.cfg := rfl

@[simp] theorem emit_text (s : State) (e : OutEvent) : (s.emit e).text = s.text := rfl

@[simp] theorem emit_input (s : State) (e : OutEvent) : (s.emit e).input = s.input := rfl

@[simp] theorem emit_gen (s : State) (e : OutEvent) : (s.emit e).gen = s.gen := rfl

@[simp] theorem emit_files (s : State) (e : OutEvent) : (s.emit e).files = s.files := rfl

@[simp] theorem emit_draws (s : State) (e : OutEvent) : (s.emit e).draws = s.draws := rfl

@[simp] theorem emit_getX (s : State) (e : OutEvent) (i : Reg) : (s.emit e).getX i = s.getX i := getX_congr (by simp) i

@[simp] theorem emit_getF (s : State) (e : OutEvent) (i : FReg) : (s.emit e).getF i = s.getF i := getF_congr (by simp) i

@[simp] theorem emit_getFD (s : State) (e : OutEvent) (i : FReg) : (s.emit e).getFD i = s.getFD i := getFD_congr (by simp) i

@[simp] theorem emit_getCC (s : State) (e : OutEvent) (i : CC) : (s.emit e).getCC i = s.getCC i := getCC_congr (by simp) i

@[simp] theorem emit_byteAt (s : State) (e : OutEvent) (m : Nat) : (s.emit e).byteAt m = s.byteAt m :=
  byteAt_congr (by simp) (by simp) (by simp) m

@[simp] theorem emit_readAdmitted (s : State) (e : OutEvent) (m n : Nat) : (s.emit e).readAdmitted m n = s.readAdmitted m n :=
  readAdmitted_congr (by simp) (by simp) m n

@[simp] theorem emit_writeAdmitted (s : State) (e : OutEvent) (m n : Nat) :
    (s.emit e).writeAdmitted m n = s.writeAdmitted m n := writeAdmitted_congr (by simp) m n

@[simp] theorem emit_out (s : State) (e : OutEvent) : (s.emit e).out = s.out ++ [e] := rfl

/-! ### write -/

@[simp] theorem write_x (s : State) (t : List Byte) : (s.write t).x = s.x := by
  unfold write; split <;> rfl

@[simp] theorem write_f (s : State) (t : List Byte) : (s.write t).f = s.f := by
  unfold write; split <;> rfl

@[simp] theorem write_hi (s : State) (t : List Byte) : (s.write t).hi = s.hi := by
  unfold write; split <;> rfl

@[simp] theorem write_lo (s : State) (t : List Byte) : (s.write t).lo = s.lo := by
  unfold write; split <;> rfl

@[simp] theorem write_pc (s : State) (t : List Byte) : (s.write t).pc = s.pc := by
  unfold write; split <;> rfl

@[simp] theorem write_cc (s : State) (t : List Byte) : (s.write t).cc = s.cc := by
  unfold write; split <;> rfl

@[simp] theorem write_mem (s : State) (t : List Byte) : (s.write t).mem = s.mem := by
  unfold write; split <;> rfl

@[simp] theorem write_heapPtr (s : State) (t : List Byte) : (s.write t).heapPtr = s.heapPtr := by
  unfold write; split <;> rfl

@[simp] theorem write_icount (s : State) (t : List Byte) : (s.write t).icount = s.icount := by
  unfold write; split <;> rfl

@[simp] theorem write_run (s : State) (t : List Byte) : (s.write t).run = s.run := by
  unfold write; split <;> rfl

@[simp] theorem write_fault (s : State) (t : List Byte) : (s.write t).fault = s.fault := by
  unfold write; split <;> rfl

@[simp] theorem write_exitCode (s : State) (t : List Byte) : (s.write t).exitCode = s.exitCode := by
  unfold write; split <;> rfl

@[simp] theorem write_cfg (s : State) (t : List Byte) : (s.write t).cfg = s.cfg := by
  unfold write; split <;> rfl

@[simp] theorem write_text (s : State) (t : List Byte) : (s.write t).text = s.text := by
  unfold write; split <;> rfl

@[simp] theorem write_input (s : State) (t : List Byte) : (s.write t).input = s.input := by
  unfold write; split <;> rfl

@[simp] theorem write_gen (s : State) (t : List Byte) : (s.write t).gen = s.gen := by
  unfold write; split <;> rfl

@[simp] theorem write_files (s : State) (t : List Byte) : (s.write t).files = s.files := by
  unfold write; split <;> rfl

@[simp] theorem write_draws (s : State) (t : List Byte) : (s.write t).draws = s.draws := by
  unfold write; split <;> rfl

@[simp] theorem write_getX (s : State) (t : List Byte) (i : Reg) : (s.write t).getX i = s.getX i := getX_congr (by simp) i

@[simp] theorem write_getF (s : State) (t : List Byte) (i : FReg) : (s.write t).getF i = s.getF i := getF_congr (by simp) i

@[simp] theorem write_getFD (s : State) (t : List Byte) (i : FReg) : (s.write t).getFD i = s.getFD i := getFD_congr (by simp) i

@[simp] theorem write_getCC (s : State) (t : List Byte) (i : CC) : (s.write t).getCC i = s.getCC i := getCC_congr (by simp) i

@[simp] theorem write_byteAt (s : State) (t : List Byte) (m : Nat) : (s.write t).byteAt m = s.byteAt m :=
  byteAt_congr (by simp) (by simp) (by simp) m

@[simp] theorem write_readAdmitted (s : State) (t : List Byte) (m n : Nat) : (s.write t).readAdmitted m n = s.readAdmitted m n :=
  readAdmitted_congr (by simp) (by simp) m n

@[simp] theorem write_writeAdmitted (s : State) (t : List Byte) (m n : Nat) :
    (s.write t).writeAdmitted m n = s.writeAdmitted m n := writeAdmitted_congr (by simp) m n

@[simp] theorem write_out (s : State) (t : List Byte) : (s.write t).out = s.out ++ textEvents t := by
  unfold write textEvents; split <;> simp [setOut]

/-! ### advance -/

@[simp] theorem advance_x (s : State)  : (s.advance).x = s.x := rfl

@[simp] theorem advance_f (s : State)  : (s.advance).f = s.f := rfl

@[simp] theorem advance_hi (s : State)  : (s.advance).hi = s.hi := rfl

@[simp] theorem advance_lo (s : State)  : (s.advance).lo = s.lo := rfl

@[simp] theorem advance_cc (s : State)  : (s.advance).cc = s.cc := rfl

@[simp] theorem advance_mem (s : State)  : (s.advance).mem = s.mem := rfl

@[simp] theorem advance_heapPtr (s : State)  : (s.advance).heapPtr = s.heapPtr := rfl

@[simp] theorem advance_run (s : State)  : (s.advance).run = s.run := rfl

@[simp] theorem advance_fault (s : State)  : (s.advance).fault = s.fault := rfl

@[simp] theorem advance_exitCode (s : State)  : (s.advance).exitCode = s.exitCode := rfl

@[simp] theorem advance_cfg (s : State)  : (s.advance).cfg = s.cfg := rfl

@[simp] theorem advance_text (s : State)  : (s.advance).text = s.text := rfl

@[simp] theorem advance_out (s : State)  : (s.advance).out = s.out := rfl

@[simp] theorem advance_input (s : State)  : (s.advance).input = s.input := rfl

@[simp] theorem advance_gen (s : State)  : (s.advance).gen = s.gen := rfl

@[simp] theorem advance_files (s : State)  : (s.advance).files = s.files := rfl

@[simp] theorem advance_draws (s : State)  : (s.advance).draws = s.draws := rfl

@[simp] theorem advance_getX (s : State)  (i : Reg) : (s.advance).getX i = s.getX i := getX_congr (by simp) i

@[simp] theorem advance_getF (s : State)  (i : FReg) : (s.advance).getF i = s.getF i := getF_congr (by simp) i

@[simp] theorem advance_getFD (s : State)  (i : FReg) : (s.advance).getFD i = s.getFD i := getFD_congr (by simp) i

@[simp] theorem advance_getCC (s : State)  (i : CC) : (s.advance).getCC i = s.getCC i := getCC_congr (by simp) i

@[simp] theorem advance_byteAt (s : State)  (m : Nat) : (s.advance).byteAt m = s.byteAt m :=
  byteAt_congr (by simp) (by simp) (by simp) m

@[simp] theorem advance_readAdmitted (s : State)  (m n : Nat) : (s.advance).readAdmitted m n = s.readAdmitted m n :=
  readAdmitted_congr (by simp) (by simp) m n

@[simp] theorem advance_writeAdmitted (s : State)  (m n : Nat) :
    (s.advance).writeAdmitted m n = s.writeAdmitted m n := writeAdmitted_congr (by simp) m n

@[simp] theorem advance_pc (s : State) : s.advance.pc = s.pc + 4 := rfl

@[simp] theorem advance_icount (s : State) : s.advance.icount = s.icount + 1 := rfl

/-! ### setHeapPtr -/

@[simp] theorem setHeapPtr_x (s : State) (a : Word) : (s.setHeapPtr a).x = s.x := rfl

@[simp] theorem setHeapPtr_f (s : State) (a : Word) : (s.setHeapPtr a).f = s.f := rfl

@[simp] theorem setHeapPtr_hi (s : State) (a : Word) : (s.setHeapPtr a).hi = s.hi := rfl

@[simp] theorem setHeapPtr_lo (s : State) (a : Word) : (s.setHeapPtr a).lo = s.lo := rfl

@[simp] theorem setHeapPtr_pc (s : State) (a : Word) : (s.setHeapPtr a).pc = s.pc := rfl

@[simp] theorem setHeapPtr_cc (s : State) (a : Word) : (s.setHeapPtr a).cc = s.cc := rfl

@[simp] theorem setHeapPtr_mem (s : State) (a : Word) : (s.setHeapPtr a).mem = s.mem := rfl

@[simp] theorem setHeapPtr_icount (s : State) (a : Word) : (s.setHeapPtr a).icount = s.icount := rfl

@[simp] theorem setHeapPtr_run (s : State) (a : Word) : (s.setHeapPtr a).run = s.run := rfl

@[simp] theorem setHeapPtr_fault (s : State) (a : Word) : (s.setHeapPtr a).fault = s.fault := rfl

@[simp] theorem setHeapPtr_exitCode (s : State) (a : Word) : (s.setHeapPtr a).exitCode = s.exitCode := rfl

@[simp] theorem setHeapPtr_cfg (s : State) (a : Word) : (s.setHeapPtr a).cfg = s.cfg := rfl

@[simp] theorem setHeapPtr_text (s : State) (a : Word) : (s.setHeapPtr a).text = s.text := rfl

@[simp] theorem setHeapPtr_out (s : State) (a : Word) : (s.setHeapPtr a).out = s.out := rfl

@[simp] theorem setHeapPtr_input (s : State) (a : Word) : (s.setHeapPtr a).input = s.input := rfl

@[simp] theorem setHeapPtr_gen (s : State) (a : Word) : (s.setHeapPtr a).gen = s.gen := rfl

@[simp] theorem setHeapPtr_files (s : State) (a : Word) : (s.setHeapPtr a).files = s.files := rfl

@[simp] theorem setHeapPtr_draws (s : State) (a : Word) : (s.setHeapPtr a).draws = s.draws := rfl

@[simp] theorem setHeapPtr_getX (s : State) (a : Word) (i : Reg) : (s.setHeapPtr a).getX i = s.getX i := getX_congr (by simp) i

@[simp] theorem setHeapPtr_getF (s : State) (a : Word) (i : FReg) : (s.setHeapPtr a).getF i = s.getF i := getF_congr (by simp) i

@[simp] theorem setHeapPtr_getFD (s : State) (a : Word) (i : FReg) : (s.setHeapPtr a).getFD i = s.getFD i := getFD_congr (by simp) i

@[simp] theorem setHeapPtr_getCC (s : State) (a : Word) (i : CC) : (s.setHeapPtr a).getCC i = s.getCC i := getCC_congr (by simp) i

@[simp] theorem setHeapPtr_byteAt (s : State) (a : Word) (m : Nat) : (s.setHeapPtr a).byteAt m = s.byteAt m :=
  byteAt_congr (by simp) (by simp) (by simp) m

@[simp] theorem setHeapPtr_readAdmitted (s : State) (a : Word) (m n : Nat) : (s.setHeapPtr a).readAdmitted m n = s.readAdmitted m n :=
  readAdmitted_congr (by simp) (by simp) m n

@[simp] theorem setHeapPtr_writeAdmitted (s : State) (a : Word) (m n : Nat) :
    (s.setHeapPtr a).writeAdmitted m n = s.writeAdmitted m n := writeAdmitted_congr (by simp) m n

@[simp] theorem setHeapPtr_heapPtr (s : State) (a : Word) : (s.setHeapPtr a).heapPtr = a := rfl

/-! ### setRun -/

@[simp] theorem setRun_x (s : State) (r : RunState) : (s.setRun r).x = s.x := rfl

@[simp] theorem setRun_f (s : State) (r : RunState) : (s.setRun r).f = s.f := rfl

@[simp] theorem setRun_hi (s : State) (r : RunState) : (s.setRun r).hi = s.hi := rfl

@[simp] theorem setRun_lo (s : State) (r : RunState) : (s.setRun r).lo = s.lo := rfl

@[simp] theorem setRun_pc (s : State) (r : RunState) : (s.setRun r).pc = s.pc := rfl

@[simp] theorem setRun_cc (s : State) (r : RunState) : (s.setRun r).cc = s.cc := rfl

@[simp] theorem setRun_mem (s : State) (r : RunState) : (s.setRun r).mem = s.mem := rfl

@[simp] theorem setRun_heapPtr (s : State) (r : RunState) : (s.setRun r).heapPtr = s.heapPtr := rfl

@[simp] theorem setRun_icount (s : State) (r : RunState) : (s.setRun r).icount = s.icount := rfl

@[simp] theorem setRun_fault (s : State) (r : RunState) : (s.setRun r).fault = s.fault := rfl

@[simp] theorem setRun_exitCode (s : State) (r : RunState) : (s.setRun r).exitCode = s.exitCode := rfl

@[simp] theorem setRun_cfg (s : State) (r : RunState) : (s.setRun r).cfg = s.cfg := rfl

@[simp] theorem setRun_text (s : State) (r : RunState) : (s.setRun r).text = s.text := rfl

@[simp] theorem setRun_out (s : State) (r : RunState) : (s.setRun r).out = s.out := rfl

@[simp] theorem setRun_input (s : State) (r : RunState) : (s.setRun r).input = s.input := rfl

@[simp] theorem setRun_gen (s : State) (r : RunState) : (s.setRun r).gen = s.gen := rfl

@[simp] theorem setRun_files (s : State) (r : RunState) : (s.setRun r).files = s.files := rfl

@[simp] theorem setRun_draws (s : State) (r : RunState) : (s.setRun r).draws = s.draws := rfl

@[simp] theorem setRun_getX (s : State) (r : RunState) (i : Reg) : (s.setRun r).getX i = s.getX i := getX_congr (by simp) i

@[simp] theorem setRun_getF (s : State) (r : RunState) (i : FReg) : (s.setRun r).getF i = s.getF i := getF_congr (by simp) i

@[simp] theorem setRun_getFD (s : State) (r : RunState) (i : FReg) : (s.setRun r).getFD i = s.getFD i := getFD_congr (by simp) i

@[simp] theorem setRun_getCC (s : State) (r : RunState) (i : CC) : (s.setRun r).getCC i = s.getCC i := getCC_congr (by simp) i

@[simp] theorem setRun_byteAt (s : State) (r : RunState) (m : Nat) : (s.setRun r).byteAt m = s.byteAt m :=
  byteAt_congr (by simp) (by simp) (by simp) m

@[simp] theorem setRun_readAdmitted (s : State) (r : RunState) (m n : Nat) : (s.setRun r).readAdmitted m n = s.readAdmitted m n :=
  readAdmitted_congr (by simp) (by simp) m n

@[simp] theorem setRun_writeAdmitted (s : State) (r : RunState) (m n : Nat) :
    (s.setRun r).writeAdmitted m n = s.writeAdmitted m n := writeAdmitted_congr (by simp) m n

@[simp] theorem setRun_run (s : State) (r : RunState) : (s.setRun r).run = r := rfl

/-! ### setOut -/

@[simp] theorem setOut_x (s : State) (es : List OutEvent) : (s.setOut es).x = s.x := rfl

@[simp] theorem setOut_f (s : State) (es : List OutEvent) : (s.setOut es).f = s.f := rfl

@[simp] theorem setOut_hi (s : State) (es : List OutEvent) : (s.setOut es).hi = s.hi := rfl

@[simp] theorem setOut_lo (s : State) (es : List OutEvent) : (s.setOut es).lo = s.lo := rfl

@[simp] theorem setOut_pc (s : State) (es : List OutEvent) : (s.setOut es).pc = s.pc := rfl

@[simp] theorem setOut_cc (s : State) (es : List OutEvent) : (s.setOut es).cc = s.cc := rfl

@[simp] theorem setOut_mem (s : State) (es : List OutEvent) : (s.setOut es).mem = s.mem := rfl

@[simp] theorem setOut_heapPtr (s : State) (es : List OutEvent) : (s.setOut es).heapPtr = s.heapPtr := rfl

@[simp] theorem setOut_icount (s : State) (es : List OutEvent) : (s.setOut es).icount = s.icount := rfl

@[simp] theorem setOut_run (s : State) (es : List OutEvent) : (s.setOut es).run = s.run := rfl

@[simp] theorem setOut_fault (s : State) (es : List OutEvent) : (s.setOut es).fault = s.fault := rfl

@[simp] theorem setOut_exitCode (s : State) (es : List OutEvent) : (s.setOut es).exitCode = s.exitCode := rfl

@[simp] theorem setOut_cfg (s : State) (es : List OutEvent) : (s.setOut es).cfg = s.cfg := rfl

@[simp] theorem setOut_text (s : State) (es : List OutEvent) : (s.setOut es).text = s.text := rfl

@[simp] theorem setOut_input (s : State) (es : List OutEvent) : (s.setOut es).input = s.input := rfl

@[simp] theorem setOut_gen (s : State) (es : List OutEvent) : (s.setOut es).gen = s.gen := rfl

@[simp] theorem setOut_files (s : State) (es : List OutEvent) : (s.setOut es).files = s.files := rfl

@[simp] theorem setOut_draws (s : State) (es : List OutEvent) : (s.setOut es).draws = s.draws := rfl

@[simp] theorem setOut_getX (s : State) (es : List OutEvent) (i : Reg) : (s.setOut es).getX i = s.getX i := getX_congr (by simp) i

@[simp] theorem setOut_getF (s : State) (es : List OutEvent) (i : FReg) : (s.setOut es).getF i = s.getF i := getF_congr (by simp) i

@[simp] theorem setOut_getFD (s : State) (es : List OutEvent) (i : FReg) : (s.setOut es).getFD i = s.getFD i := getFD_congr (by simp) i

@[simp] theorem setOut_getCC (s : State) (es : List OutEvent) (i : CC) : (s.setOut es).getCC i = s.getCC i := getCC_congr (by simp) i

@[simp] theorem setOut_byteAt (s : State) (es : List OutEvent) (m : Nat) : (s.setOut es).byteAt m = s.byteAt m :=
  byteAt_congr (by simp) (by simp) (by simp) m

@[simp] theorem setOut_readAdmitted (s : State) (es : List OutEvent) (m n : Nat) : (s.setOut es).readAdmitted m n = s.readAdmitted m n :=
  readAdmitted_congr (by simp) (by simp) m n

@[simp] theorem setOut_writeAdmitted (s : State) (es : List OutEvent) (m n : Nat) :
    (s.setOut es).writeAdmitted m n = s.writeAdmitted m n := writeAdmitted_congr (by simp) m n

@[simp] theorem setOut_out (s : State) (es : List OutEvent) : (s.setOut es).out = es := rfl

/-! ### setInput -/

@[simp] theorem setInput_x (s : State) (ls : List (List Byte)) : (s.setInput ls).x = s.x := rfl

@[simp] theorem setInput_f (s : State) (ls : List (List Byte)) : (s.setInput ls).f = s.f := rfl

@[simp] theorem setInput_hi (s : State) (ls : List (List Byte)) : (s.setInput ls).hi = s.hi := rfl

@[simp] theorem setInput_lo (s : State) (ls : List (List Byte)) : (s.setInput ls).lo = s.lo := rfl

@[simp] theorem setInput_pc (s : State) (ls : List (List Byte)) : (s.setInput ls).pc = s.pc := rfl

@[simp] theorem setInput_cc (s : State) (ls : List (List Byte)) : (s.setInput ls).cc = s.cc := rfl

@[simp] theorem setInput_mem (s : State) (ls : List (List Byte)) : (s.setInput ls).mem = s.mem := rfl

@[simp] theorem setInput_heapPtr (s : State) (ls : List (List Byte)) : (s.setInput ls).heapPtr = s.heapPtr := rfl

@[simp] theorem setInput_icount (s : State) (ls : List (List Byte)) : (s.setInput ls).icount = s.icount := rfl

@[simp] theorem setInput_run (s : State) (ls : List (List Byte)) : (s.setInput ls).run = s.run := rfl

@[simp] theorem setInput_fault (s : State) (ls : List (List Byte)) : (s.setInput ls).fault = s.fault := rfl

@[simp] theorem setInput_exitCode (s : State) (ls : List (List Byte)) : (s.setInput ls).exitCode = s.exitCode := rfl

@[simp] theorem setInput_cfg (s : State) (ls : List (List Byte)) : (s.setInput ls).cfg = s.cfg := rfl

@[simp] theorem setInput_text (s : State) (ls : List (List Byte)) : (s.setInput ls).text = s.text := rfl

@[simp] theorem setInput_out (s : State) (ls : List (List Byte)) : (s.setInput ls).out = s.out := rfl

@[simp] theorem setInput_gen (s : State) (ls : List (List Byte)) : (s.setInput ls).gen = s.gen := rfl

@[simp] theorem setInput_files (s : State) (ls : List (List Byte)) : (s.setInput ls).files = s.files := rfl

@[simp] theorem setInput_draws (s : State) (ls : List (List Byte)) : (s.setInput ls).draws = s.draws := rfl

@[simp] theorem setInput_getX (s : State) (ls : List (List Byte)) (i : Reg) : (s.setInput ls).getX i = s.getX i := getX_congr (by simp) i

@[simp] theorem setInput_getF (s : State) (ls : List (List Byte)) (i : FReg) : (s.setInput ls).getF i = s.getF i := getF_congr (by simp) i

@[simp] theorem setInput_getFD (s : State) (ls : List (List Byte)) (i : FReg) : (s.setInput ls).getFD i = s.getFD i := getFD_congr (by simp) i

@[simp] theorem setInput_getCC (s : State) (ls : List (List Byte)) (i : CC) : (s.setInput ls).getCC i = s.getCC i := getCC_congr (by simp) i

@[simp] theorem setInput_byteAt (s : State) (ls : List (List Byte)) (m : Nat) : (s.setInput ls).byteAt m = s.byteAt m :=
  byteAt_congr (by simp) (by simp) (by simp) m

@[simp] theorem setInput_readAdmitted (s : State) (ls : List (List Byte)) (m n : Nat) : (s.setInput ls).readAdmitted m n = s.readAdmitted m n :=
  readAdmitted_congr (by simp) (by simp) m n

@[simp] theorem setInput_writeAdmitted (s : State) (ls : List (List Byte)) (m n : Nat) :
    (s.setInput ls).writeAdmitted m n = s.writeAdmitted m n := writeAdmitted_congr (by simp) m n

@[simp] theorem setInput_input (s : State) (ls : List (List Byte)) : (s.setInput ls).input = ls := rfl

/-! ### setGen -/

@[simp] theorem setGen_x (s : State) (g : Nat) : (s.setGen g).x = s.x := rfl

@[simp] theorem setGen_f (s : State) (g : Nat) : (s.setGen g).f = s.f := rfl

@[simp] theorem setGen_hi (s : State) (g : Nat) : (s.setGen g).hi = s.hi := rfl

@[simp] theorem setGen_lo (s : State) (g : Nat) : (s.setGen g).lo = s.lo := rfl

@[simp] theorem setGen_pc (s : State) (g : Nat) : (s.setGen g).pc = s.pc := rfl

@[simp] theorem setGen_cc (s : State) (g : Nat) : (s.setGen g).cc = s.cc := rfl

@[simp] theorem setGen_mem (s : State) (g : Nat) : (s.setGen g).mem = s.mem := rfl

@[simp] theorem setGen_heapPtr (s : State) (g : Nat) : (s.setGen g).heapPtr = s.heapPtr := rfl

@[simp] theorem setGen_icount (s : State) (g : Nat) : (s.setGen g).icount = s.icount := rfl

@[simp] theorem setGen_run (s : State) (g : Nat) : (s.setGen g).run = s.run := rfl

@[simp] theorem setGen_fault (s : State) (g : Nat) : (s.setGen g).fault = s.fault := rfl

@[simp] theorem setGen_exitCode (s : State) (g : Nat) : (s.setGen g).exitCode = s.exitCode := rfl

@[simp] theorem setGen_cfg (s : State) (g : Nat) : (s.setGen g).cfg = s.cfg := rfl

@[simp] theorem setGen_text (s : State) (g : Nat) : (s.setGen g).text = s.text := rfl

@[simp] theorem setGen_out (s : State) (g : Nat) : (s.setGen g).out = s.out := rfl

@[simp] theorem setGen_input (s : State) (g : Nat) : (s.setGen g).input = s.input := rfl

@[simp] theorem setGen_files (s : State) (g : Nat) : (s.setGen g).files = s.files := rfl

@[simp] theorem setGen_draws (s : State) (g : Nat) : (s.setGen g).draws = s.draws := rfl

@[simp] theorem setGen_getX (s : State) (g : Nat) (i : Reg) : (s.setGen g).getX i = s.getX i := getX_congr (by simp) i

@[simp] theorem setGen_getF (s : State) (g : Nat) (i : FReg) : (s.setGen g).getF i = s.getF i := getF_congr (by simp) i

@[simp] theorem setGen_getFD (s : State) (g : Nat) (i : FReg) : (s.setGen g).getFD i = s.getFD i := getFD_congr (by simp) i

@[simp] theorem setGen_getCC (s : State) (g : Nat) (i : CC) : (s.setGen g).getCC i = s.getCC i := getCC_congr (by simp) i

@[simp] theorem setGen_byteAt (s : State) (g : Nat) (m : Nat) : (s.setGen g).byteAt m = s.byteAt m :=
  byteAt_congr (by simp) (by simp) (by simp) m

@[simp] theorem setGen_readAdmitted (s : State) (g : Nat) (m n : Nat) : (s.setGen g).readAdmitted m n = s.readAdmitted m n :=
  readAdmitted_congr (by simp) (by simp) m n

@[simp] theorem setGen_writeAdmitted (s : State) (g : Nat) (m n : Nat) :
    (s.setGen g).writeAdmitted m n = s.writeAdmitted m n := writeAdmitted_congr (by simp) m n

@[simp] theorem setGen_gen (s : State) (g : Nat) : (s.setGen g).gen = g := rfl

/-! ### setDraws -/

@[simp] theorem setDraws_x (s : State) (d : Nat) : (s.setDraws d).x = s.x := rfl

@[simp] theorem setDraws_f (s : State) (d : Nat) : (s.setDraws d).f = s.f := rfl

@[simp] theorem setDraws_hi (s : State) (d : Nat) : (s.setDraws d).hi = s.hi := rfl

@[simp] theorem setDraws_lo (s : State) (d : Nat) : (s.setDraws d).lo = s.lo := rfl

@[simp] theorem setDraws_pc (s : State) (d : Nat) : (s.setDraws d).pc = s.pc := rfl

@[simp] theorem setDraws_cc (s : State) (d : Nat) : (s.setDraws d).cc = s.cc := rfl

@[simp] theorem setDraws_mem (s : State) (d : Nat) : (s.setDraws d).mem = s.mem := rfl

@[simp] theorem setDraws_heapPtr (s : State) (d : Nat) : (s.setDraws d).heapPtr = s.heapPtr := rfl

@[simp] theorem setDraws_icount (s : State) (d : Nat) : (s.setDraws d).icount = s.icount := rfl

@[simp] theorem setDraws_run (s : State) (d : Nat) : (s.setDraws d).run = s.run := rfl

@[simp] theorem setDraws_fault (s : State) (d : Nat) : (s.setDraws d).fault = s.fault := rfl

@[simp] theorem setDraws_exitCode (s : State) (d : Nat) : (s.setDraws d).exitCode = s.exitCode := rfl

@[simp] theorem setDraws_cfg (s : State) (d : Nat) : (s.setDraws d).cfg = s.cfg := rfl

@[simp] theorem setDraws_text (s : State) (d : Nat) : (s.setDraws d).text = s.text := rfl

@[simp] theorem setDraws_out (s : State) (d : Nat) : (s.setDraws d).out = s.out := rfl

@[simp] theorem setDraws_input (s : State) (d : Nat) : (s.setDraws d).input = s.input := rfl

@[simp] theorem setDraws_gen (s : State) (d : Nat) : (s.setDraws d).gen = s.gen := rfl

@[simp] theorem setDraws_files (s : State) (d : Nat) : (s.setDraws d).files = s.files := rfl

@[simp] theorem setDraws_getX (s : State) (d : Nat) (i : Reg) : (s.setDraws d).getX i = s.getX i := getX_congr (by simp) i

@[simp] theorem setDraws_getF (s : State) (d : Nat) (i : FReg) : (s.setDraws d).getF i = s.getF i := getF_congr (by simp) i

@[simp] theorem setDraws_getFD (s : State) (d : Nat) (i : FReg) : (s.setDraws d).getFD i = s.getFD i := getFD_congr (by simp) i

@[simp] theorem setDraws_getCC (s : State) (d : Nat) (i : CC) : (s.setDraws d).getCC i = s.getCC i := getCC_congr (by simp) i

@[simp] theorem setDraws_byteAt (s : State) (d : Nat) (m : Nat) : (s.setDraws d).byteAt m = s.byteAt m :=
  byteAt_congr (by simp) (by simp) (by simp) m

@[simp] theorem setDraws_readAdmitted (s : State) (d : Nat) (m n : Nat) : (s.setDraws d).readAdmitted m n = s.readAdmitted m n :=
  readAdmitted_congr (by simp) (by simp) m n

@[simp] theorem setDraws_writeAdmitted (s : State) (d : Nat) (m n : Nat) :
    (s.setDraws d).writeAdmitted m n = s.writeAdmitted m n := writeAdmitted_congr (by simp) m n

@[simp] theorem setDraws_draws (s : State) (d : Nat) : (s.setDraws d).draws = d := rfl

/-! ### putEach -/

/-- A string store replaces memory only. -/
theorem putEach_eq (bs : List Byte) : ∀ (s : State) (a : Word), ∃ m, s.putEach a bs = { s with mem := m } := by
  induction bs with
  | nil => intro s a; exact ⟨s.mem, rfl⟩
  | cons b bs ih =>
    intro s a
    obtain ⟨m, h⟩ := ih (s.putBytes a.toNat [b]) (a + 1)
    exact ⟨m, by rw [putEach, h]; rfl⟩

@[simp] theorem putEach_x (s : State) (a : Word) (bs : List Byte) : (s.putEach a bs).x = s.x := by
  obtain ⟨m, h⟩ := putEach_eq bs s a; rw [h]

@[simp] theorem putEach_f (s : State) (a : Word) (bs : List Byte) : (s.putEach a bs).f = s.f := by
  obtain ⟨m, h⟩ := putEach_eq bs s a; rw [h]

@[simp] theorem putEach_hi (s : State) (a : Word) (bs : List Byte) : (s.putEach a bs).hi = s.hi := by
  obtain ⟨m, h⟩ := putEach_eq bs s a; rw [h]

@[simp] theorem putEach_lo (s : State) (a : Word) (bs : List Byte) : (s.putEach a bs).lo = s.lo := by
  obtain ⟨m, h⟩ := putEach_eq bs s a; rw [h]

@[simp] theorem putEach_pc (s : State) (a : Word) (bs : List Byte) : (s.putEach a bs).pc = s.pc := by
  obtain ⟨m, h⟩ := putEach_eq bs s a; rw [h]

@[simp] theorem putEach_cc (s : State) (a : Word) (bs : List Byte) : (s.putEach a bs).cc = s.cc := by
  obtain ⟨m, h⟩ := putEach_eq bs s a; rw [h]

@[simp] theorem putEach_heapPtr (s : State) (a : Word) (bs : List Byte) : (s.putEach a bs).heapPtr = s.heapPtr := by
  obtain ⟨m, h⟩ := putEach_eq bs s a; rw [h]

@[simp] theorem putEach_icount (s : State) (a : Word) (bs : List Byte) : (s.putEach a bs).icount = s.icount := by
  obtain ⟨m, h⟩ := putEach_eq bs s a; rw [h]

@[simp] theorem putEach_run (s : State) (a : Word) (bs : List Byte) : (s.putEach a bs).run = s.run := by
  obtain ⟨m, h⟩ := putEach_eq bs s a; rw [h]

@[simp] theorem putEach_fault (s : State) (a : Word) (bs : List Byte) : (s.putEach a bs).fault = s.fault := by
  obtain ⟨m, h⟩ := putEach_eq bs s a; rw [h]

@[simp] theorem putEach_exitCode (s : State) (a : Word) (bs : List Byte) : (s.putEach a bs).exitCode = s.exitCode := by
  obtain ⟨m, h⟩ := putEach_eq bs s a; rw [h]

@[simp] theorem putEach_cfg (s : State) (a : Word) (bs : List Byte) : (s.putEach a bs).cfg = s.cfg := by
  obtain ⟨m, h⟩ := putEach_eq bs s a; rw [h]

@[simp] theorem putEach_text (s : State) (a : Word) (bs : List Byte) : (s.putEach a bs).text = s.text := by
  obtain ⟨m, h⟩ := putEach_eq bs s a; rw [h]

@[simp] theorem putEach_out (s : State) (a : Word) (bs : List Byte) : (s.putEach a bs).out = s.out := by
  obtain ⟨m, h⟩ := putEach_eq bs s a; rw [h]

@[simp] theorem putEach_input (s : State) (a : Word) (bs : List Byte) : (s.putEach a bs).input = s.input := by
  obtain ⟨m, h⟩ := putEach_eq bs s a; rw [h]

@[simp] theorem putEach_gen (s : State) (a : Word) (bs : List Byte) : (s.putEach a bs).gen = s.gen := by
  obtain ⟨m, h⟩ := putEach_eq bs s a; rw [h]

@[simp] theorem putEach_files (s : State) (a : Word) (bs : List Byte) : (s.putEach a bs).files = s.files := by
  obtain ⟨m, h⟩ := putEach_eq bs s a; rw [h]

@[simp] theorem putEach_draws (s : State) (a : Word) (bs : List Byte) : (s.putEach a bs).draws = s.draws := by
  obtain ⟨m, h⟩ := putEach_eq bs s a; rw [h]

@[simp] theorem putEach_getX (s : State) (a : Word) (bs : List Byte) (i : Reg) : (s.putEach a bs).getX i = s.getX i :=
  getX_congr (by simp) i

@[simp] theorem putEach_getF (s : State) (a : Word) (bs : List Byte) (i : FReg) : (s.putEach a bs).getF i = s.getF i :=
  getF_congr (by simp) i

@[simp] theorem putEach_getFD (s : State) (a : Word) (bs : List Byte) (i : FReg) : (s.putEach a bs).getFD i = s.getFD i :=
  getFD_congr (by simp) i

@[simp] theorem putEach_getCC (s : State) (a : Word) (bs : List Byte) (i : CC) : (s.putEach a bs).getCC i = s.getCC i :=
  getCC_congr (by simp) i

end State

end Sys2Proof.Machine
end

