-- ==== Sys2Proof/Laws/Memory.lean ====
section
/-! SUPPORT. The byte store: read after write, the canonical form and that every operation keeps it, the bytes of a wide
value in each order, and admission as a range. -/

namespace Sys2Proof.Machine

namespace Memory

/-! ### Read after write -/

theorem get_erase_same (m : Memory) (a : Nat) : get (erase m a) a = unlisted := by
  induction m with
  | nil => rfl
  | cons c m ih =>
    obtain ⟨k, v⟩ := c
    by_cases h : k = a <;> simp [erase, get, h, ih]

theorem get_erase_other (m : Memory) {a b : Nat} (h : b ≠ a) : get (erase m a) b = get m b := by
  induction m with
  | nil => rfl
  | cons c m ih =>
    obtain ⟨k, v⟩ := c
    by_cases hk : k = a
    · subst hk; simp [erase, get, ih, h.symm]
    · simp [erase, get, hk, ih]

theorem get_insert_other (m : Memory) {a b : Nat} (v : Byte) (h : b ≠ a) : get (insert m a v) b = get m b := by
  induction m with
  | nil => simp [insert, get, h.symm]
  | cons c m ih =>
    obtain ⟨k, w⟩ := c
    by_cases hk : a < k <;> simp [insert, get, hk, h.symm, ih]

theorem get_insert_same (m : Memory) (a : Nat) (v : Byte) (h : ∀ c ∈ m, c.1 ≠ a) : get (insert m a v) a = v := by
  induction m with
  | nil => simp [insert, get]
  | cons c m ih =>
    obtain ⟨k, w⟩ := c
    have hk : k ≠ a := h (k, w) (by simp)
    have ih := ih fun c hc => h c (by simp [hc])
    by_cases hl : a < k <;> simp [insert, get, hl, hk, ih]

theorem ne_of_mem_erase (m : Memory) (a : Nat) : ∀ c ∈ erase m a, c.1 ≠ a := by
  induction m with
  | nil => simp [erase]
  | cons c m ih =>
    obtain ⟨k, v⟩ := c
    by_cases hk : k = a
    · simpa [erase, hk] using ih
    · intro c hc
      simp only [erase, hk, if_false, List.mem_cons] at hc
      rcases hc with rfl | hc
      · exact hk
      · exact ih c hc

/-- A read after a write to the same place gives the value written. -/
theorem get_set_same (m : Memory) (a : Nat) (v : Byte) : get (set m a v) a = v := by
  unfold set
  split
  · rename_i h; rw [get_erase_same, h]
  · exact get_insert_same _ _ _ (ne_of_mem_erase m a)

/-- A write leaves every other place alone. -/
theorem get_set_other (m : Memory) {a b : Nat} (v : Byte) (h : b ≠ a) : get (set m a v) b = get m b := by
  unfold set
  split
  · exact get_erase_other m h
  · rw [get_insert_other _ _ h, get_erase_other m h]

theorem get_setAll (bs : List Byte) : ∀ (m : Memory) (a b : Nat),
    get (setAll m a bs) b = if a ≤ b ∧ b < a + bs.length then bs.getD (b - a) 0 else get m b := by
  induction bs with
  | nil =>
    intro m a b
    rw [if_neg (by simp)]
    rfl
  | cons v bs ih =>
    intro m a b
    rw [setAll, ih]
    by_cases h : b = a
    · subst h; simp [get_set_same]
    · by_cases h2 : a + 1 ≤ b ∧ b < a + 1 + bs.length
      · have h3 : a ≤ b ∧ b < a + (v :: bs).length := by simp; omega
        rw [if_pos h2, if_pos h3, show b - a = (b - (a + 1)) + 1 by omega]
        simp
      · have h3 : ¬ (a ≤ b ∧ b < a + (v :: bs).length) := by simp; omega
        rw [if_neg h2, if_neg h3, get_set_other _ _ h]

/-! ### The canonical form -/

theorem wfFrom_mono {m : Memory} {lo lo' : Nat} (h : lo' ≤ lo) (w : wfFrom lo m = true) : wfFrom lo' m = true := by
  cases m with
  | nil => rfl
  | cons c m =>
    obtain ⟨k, v⟩ := c
    simp [wfFrom] at w ⊢
    exact ⟨⟨by omega, w.1.2⟩, w.2⟩

theorem wfFrom_erase (m : Memory) (a : Nat) : ∀ lo, wfFrom lo m = true → wfFrom lo (erase m a) = true := by
  induction m with
  | nil => intro lo _; rfl
  | cons c m ih =>
    intro lo w
    obtain ⟨k, v⟩ := c
    simp [wfFrom] at w
    by_cases hk : k = a
    · simp only [erase, hk, if_true]
      exact ih lo (wfFrom_mono (by omega) w.2)
    · simp only [erase, hk, if_false]
      simp [wfFrom, w.1, ih (k + 1) w.2]

theorem wfFrom_insert (m : Memory) (a : Nat) (v : Byte) (hv : v ≠ unlisted) :
    ∀ lo, lo ≤ a → (∀ c ∈ m, c.1 ≠ a) → wfFrom lo m = true → wfFrom lo (insert m a v) = true := by
  induction m with
  | nil => intro lo h _ _; simp [insert, wfFrom, h, hv]
  | cons c m ih =>
    intro lo h hne w
    obtain ⟨k, u⟩ := c
    have hk : k ≠ a := hne (k, u) (by simp)
    simp [wfFrom] at w
    by_cases hl : a < k
    · simp [insert, hl, wfFrom, h, hv, w.1.2, w.2]
    · simp only [insert, hl, if_false]
      simp [wfFrom, w.1, ih (k + 1) (by omega) (fun c hc => hne c (by simp [hc])) w.2]

/-- A write keeps the canonical form. -/
theorem wf_set {m : Memory} (a : Nat) (v : Byte) (w : wf m = true) : wf (set m a v) = true := by
  unfold set
  split
  · exact wfFrom_erase m a 0 w
  · rename_i h
    exact wfFrom_insert _ a v h 0 (Nat.zero_le a) (ne_of_mem_erase m a) (wfFrom_erase m a 0 w)

theorem wf_setAll (bs : List Byte) : ∀ {m : Memory} (a : Nat), wf m = true → wf (setAll m a bs) = true := by
  induction bs with
  | nil => intro m a w; exact w
  | cons v bs ih => intro m a w; exact ih (a + 1) (wf_set a v w)

theorem wf_nil : wf [] = true := rfl

/-! ### Which addresses are listed -/

theorem mem_erase {m : Memory} {a : Nat} {c : Host.Cell} (h : c ∈ erase m a) : c ∈ m := by
  induction m with
  | nil => exact h
  | cons d m ih =>
    obtain ⟨k, v⟩ := d
    by_cases hk : k = a
    · simp only [erase, hk, if_true] at h; exact List.mem_cons_of_mem _ (ih h)
    · simp only [erase, hk, if_false, List.mem_cons] at h
      rcases h with rfl | h
      · simp
      · exact List.mem_cons_of_mem _ (ih h)

theorem mem_insert {m : Memory} {a : Nat} {v : Byte} {c : Host.Cell} (h : c ∈ insert m a v) :
    c = (a, v) ∨ c ∈ m := by
  induction m with
  | nil => simpa [insert] using h
  | cons d m ih =>
    obtain ⟨k, u⟩ := d
    by_cases hk : a < k
    · simpa [insert, hk] using h
    · simp only [insert, hk, if_false, List.mem_cons] at h
      rcases h with rfl | h
      · simp
      · rcases ih h with h | h <;> simp [h]

theorem below_setAll {b : Nat} (bs : List Byte) : ∀ {m : Memory} (a : Nat), (∀ c ∈ m, c.1 < b) → a + bs.length ≤ b →
    ∀ c ∈ setAll m a bs, c.1 < b := by
  induction bs with
  | nil => intro m a h _; exact h
  | cons v bs ih =>
    intro m a h hb
    simp at hb
    refine ih (a + 1) (fun c hc => ?_) (by omega)
    unfold set at hc
    split at hc
    · exact h c (mem_erase hc)
    · rcases mem_insert hc with rfl | hc
      · simp; omega
      · exact h c (mem_erase hc)

theorem get_of_wfFrom_lt (m : Memory) : ∀ lo a, a < lo → wfFrom lo m = true → get m a = unlisted := by
  induction m with
  | nil => intro _ _ _ _; rfl
  | cons c m ih =>
    intro lo a h w
    obtain ⟨k, v⟩ := c
    simp [wfFrom] at w
    have hk : k ≠ a := by omega
    simpa [get, hk] using ih (k + 1) a (by omega) w.2

/-- Memories of the canonical form that read the same are the same data. -/
theorem eq_of_get (m : Memory) : ∀ (m' : Memory) (lo lo' : Nat), wfFrom lo m = true → wfFrom lo' m' = true →
    (∀ a, get m a = get m' a) → m = m' := by
  induction m with
  | nil =>
    intro m' lo lo' _ w h
    cases m' with
    | nil => rfl
    | cons c m' =>
      obtain ⟨k, v⟩ := c
      have := h k
      simp [wfFrom] at w
      simp [get] at this
      exact absurd this.symm w.1.2
  | cons c m ih =>
    intro m' lo lo' w w' h
    obtain ⟨k, v⟩ := c
    simp [wfFrom] at w
    cases m' with
    | nil =>
      have := h k
      simp [get] at this
      exact absurd this w.1.2
    | cons c' m' =>
      obtain ⟨k', v'⟩ := c'
      simp [wfFrom] at w'
      have hk : k = k' := by
        rcases Nat.lt_trichotomy k k' with hlt | heq | hgt
        · have e := h k
          have e2 : get m' k = unlisted := get_of_wfFrom_lt m' (k' + 1) k (by omega) w'.2
          simp [get, show k' ≠ k by omega, e2] at e
          exact absurd e w.1.2
        · exact heq
        · have e := h k'
          have e2 : get m k' = unlisted := get_of_wfFrom_lt m (k + 1) k' (by omega) w.2
          simp [get, show k ≠ k' by omega, e2] at e
          exact absurd e.symm w'.1.2
      subst hk
      have hv : v = v' := by simpa [get] using h k
      subst hv
      rw [ih m' (k + 1) (k + 1) w.2 w'.2]
      intro a
      have := h a
      by_cases ha : k = a
      · rw [get_of_wfFrom_lt m (k + 1) a (by omega) w.2, get_of_wfFrom_lt m' (k + 1) a (by omega) w'.2]
      · simpa [get, ha] using this

end Memory

/-! ### The bytes of a wide value (20_memory.md R44) -/

@[simp] theorem length_splitLow (n : Nat) : ∀ v, (splitLow n v).length = n := by
  induction n with
  | zero => intro v; rfl
  | succ n ih => intro v; simp [splitLow, ih]

@[simp] theorem length_split (e : Endian) (n v : Nat) : (split e n v).length = n := by cases e <;> simp [split]

theorem getD_splitLow (n : Nat) : ∀ v k, k < n → (splitLow n v).getD k 0 = BitVec.ofNat 8 (v / 256 ^ k) := by
  induction n with
  | zero => intro v k h; omega
  | succ n ih =>
    intro v k h
    cases k with
    | zero => simp [splitLow]
    | succ k =>
      simp only [splitLow, List.getD_cons_succ]
      rw [ih (v / 256) k (by omega), Nat.div_div_eq_div_mul, Nat.pow_succ, Nat.mul_comm]

theorem getD_split (e : Endian) (n v k : Nat) (h : k < n) : (split e n v).getD k 0 = byteOf e n v k := by
  cases e with
  | little => exact getD_splitLow n v k h
  | big =>
    simp only [split, byteOf]
    rw [← getD_splitLow n v (n - 1 - k) (by omega), List.getD_eq_getElem?_getD, List.getD_eq_getElem?_getD,
      List.getElem?_reverse (by simpa using h)]
    simp

@[simp] theorem length_bytesAt (s : State) (n : Nat) : ∀ a, (s.bytesAt a n).length = n := by
  induction n with
  | zero => intro a; rfl
  | succ n ih => intro a; simp [State.bytesAt, ih]

theorem bytesAt_eq_map (s : State) (n : Nat) : ∀ a, s.bytesAt a n = (List.range n).map fun k => s.byteAt (a + k) := by
  induction n with
  | zero => intro a; rfl
  | succ n ih =>
    intro a
    rw [State.bytesAt, ih, List.range_succ_eq_map]
    simp [Function.comp_def, Nat.add_comm, Nat.add_left_comm]

theorem composeLow_eq_sum (g : Nat → Byte) (n : Nat) :
    composeLow ((List.range n).map g) = ((List.range n).map fun k => (g k).toNat * 256 ^ k).sum := by
  induction n generalizing g with
  | zero => rfl
  | succ n ih =>
    rw [List.range_succ_eq_map]
    simp only [List.map_cons, List.map_map, composeLow, List.sum_cons]
    have h := ih (g ∘ Nat.succ)
    rw [show (List.map (g ∘ Nat.succ) (List.range n)) = List.map (g ∘ Nat.succ) (List.range n) from rfl] at h
    rw [h, ← List.sum_map_mul_left]
    simp [Function.comp_def, Nat.pow_succ, Nat.mul_comm, Nat.mul_left_comm]

/-- The value the model composes is the spec's sum. -/
theorem compose_bytesAt (s : State) (a n : Nat) : compose s.cfg.endian (s.bytesAt a n) = s.valueOf a n := by
  rw [bytesAt_eq_map]
  unfold State.valueOf
  cases s.cfg.endian with
  | little => exact composeLow_eq_sum (fun k => s.byteAt (a + k)) n
  | big =>
    simp only [compose]
    have : ((List.range n).map fun k => s.byteAt (a + k)).reverse
        = (List.range n).map fun k => s.byteAt (a + (n - 1 - k)) := by
      apply List.ext_getElem <;> simp
    rw [this, composeLow_eq_sum fun k => s.byteAt (a + (n - 1 - k))]
    rw [← List.sum_reverse, ← List.map_reverse]
    congr 1
    apply List.ext_getElem
    · simp
    · intro i h1 h2
      simp at h1 h2 ⊢
      congr 3
      omega

/-! ### Admission -/

theorem within_iff (lo hi a n : Nat) : within lo hi a n = true ↔ lo ≤ a ∧ a + n ≤ hi := by simp [within]

/-- A part of an admitted range is admitted. -/
theorem readAdmitted_sub {s : State} {a n b m : Nat} (h : s.readAdmitted a n = true) (hb : a ≤ b) (he : b + m ≤ a + n) :
    s.readAdmitted b m = true := by
  simp [State.readAdmitted, State.inText, Cfg.inStore, within_iff] at h ⊢
  omega

theorem writeAdmitted_sub {s : State} {a n b m : Nat} (h : s.writeAdmitted a n = true) (hb : a ≤ b)
    (he : b + m ≤ a + n) : s.writeAdmitted b m = true := by
  simp [State.writeAdmitted, Cfg.inStore, within_iff] at h ⊢
  omega

theorem readAdmitted_of_write {s : State} {a n : Nat} (h : s.writeAdmitted a n = true) : s.readAdmitted a n = true := by
  simp [State.writeAdmitted, State.readAdmitted] at h ⊢
  simp [h]

theorem inStore_of_writeAdmitted {s : State} {a n b : Nat} (h : s.writeAdmitted a n = true) (hb : a ≤ b)
    (he : b < a + n) : Cfg.inStore s.cfg b 1 = true := by
  have := writeAdmitted_sub (m := 1) h hb (by omega)
  simp [State.writeAdmitted] at this
  exact this.2

theorem lt_of_writeAdmitted {s : State} {a n : Nat} (h : s.writeAdmitted a n = true) : a + n ≤ 2 ^ 32 := by
  simp [State.writeAdmitted] at h
  exact h.1

/-- Reading any byte after bytes have been put where a write is admitted. -/
theorem byteAt_putBytes {s : State} {a : Nat} {bs : List Byte} (h : s.writeAdmitted a bs.length = true) (b : Nat) :
    (s.putBytes a bs).byteAt b = if a ≤ b ∧ b < a + bs.length then bs.getD (b - a) 0 else s.byteAt b := by
  unfold State.byteAt
  rw [State.textByte_congr (s := s) (by simp) (by simp)]
  simp only [State.putBytes_cfg, State.putBytes_mem, Memory.get_setAll]
  by_cases hb : a ≤ b ∧ b < a + bs.length
  · simp [hb, inStore_of_writeAdmitted h hb.1 hb.2]
  · simp [hb]

/-- What an admitted aligned store leaves. -/
theorem storesAt_putBytes {s : State} {a n v : Nat} (h : s.writeAdmitted a n = true) :
    StoresAt s (s.putBytes a (split s.cfg.endian n v)) a n v := by
  refine ⟨fun b => ?_, fun p hp => ?_⟩
  · rw [byteAt_putBytes (by simpa using h)]
    simp only [length_split]
    split
    · rename_i hb; exact getD_split _ _ _ _ (by omega)
    · rfl
  · cases p <;> simp_all [Part.same]

/-! ### Strings (47_syscall.md R280) -/

theorem add_ofNat_succ (a : Word) (k : Nat) : a + BitVec.ofNat 32 (k + 1) = a + 1 + BitVec.ofNat 32 k := by
  rw [Nat.add_comm, BitVec.ofNat_add, ← add_assoc]
  rfl

/-- When no address is unwritable, all are writable. -/
theorem writeAdmitted_of_firstUnwritable {s : State} : ∀ {n : Nat} {a : Word}, s.firstUnwritable n a = none →
    ∀ k < n, s.writeAdmitted (a + BitVec.ofNat 32 k).toNat 1 = true := by
  intro n
  induction n with
  | zero => intro a _ k hk; omega
  | succ n ih =>
    intro a h k hk
    unfold State.firstUnwritable at h
    split at h
    · rename_i hw
      cases k with
      | zero => simpa using hw
      | succ k => rw [add_ofNat_succ]; exact ih h k (by omega)
    · simp at h

theorem byteAt_congr_get {s t : State} {a : Nat} (hc : t.cfg = s.cfg) (ht : t.text = s.text)
    (h : Memory.get t.mem a = Memory.get s.mem a) : t.byteAt a = s.byteAt a := by
  unfold State.byteAt
  rw [State.textByte_congr hc ht, hc, h]

/-- A string store leaves every other byte alone. -/
theorem byteAt_putEach_other (bs : List Byte) : ∀ (s : State) (w : Word) (a : Nat),
    (∀ k < bs.length, a ≠ (w + BitVec.ofNat 32 k).toNat) → (s.putEach w bs).byteAt a = s.byteAt a := by
  induction bs with
  | nil => intro s w a _; rfl
  | cons b bs ih =>
    intro s w a h
    rw [State.putEach, ih]
    · refine byteAt_congr_get (by simp) (by simp) ?_
      simp only [State.putBytes_mem, Memory.setAll]
      exact Memory.get_set_other _ _ (by simpa using h 0 (by simp))
    · intro k hk
      have := h (k + 1) (by simpa using hk)
      rwa [add_ofNat_succ] at this

theorem wf_putEach (bs : List Byte) : ∀ {s : State} (w : Word), Memory.wf s.mem = true →
    Memory.wf (s.putEach w bs).mem = true := by
  induction bs with
  | nil => intro s w h; exact h
  | cons b bs ih => intro s w h; exact ih _ (Memory.wf_set _ _ h)

theorem below_putEach (bs : List Byte) : ∀ {s : State} (w : Word), (∀ c ∈ s.mem, c.1 < 2 ^ 32) →
    ∀ c ∈ (s.putEach w bs).mem, c.1 < 2 ^ 32 := by
  induction bs with
  | nil => intro s w h; exact h
  | cons b bs ih =>
    intro s w h
    exact ih _ (Memory.below_setAll [b] w.toNat h (by simpa using w.isLt))

theorem wf_images (images : List Image) : ∀ {m : Memory}, Memory.wf m = true →
    Memory.wf (images.foldl (fun m image => m.setAll image.addr image.bytes) m) = true := by
  induction images with
  | nil => intro m h; exact h
  | cons i images ih => intro m h; exact ih (Memory.wf_setAll _ _ h)

/-! ### What the loader wrote is what is read -/

theorem get_setAll_image (m : Memory) (i : Image) (a : Nat) :
    Memory.get (m.setAll i.addr i.bytes) a = (i.byteAt a).getD (Memory.get m a) := by
  rw [Memory.get_setAll, Image.byteAt]
  by_cases h : i.addr ≤ a
  · by_cases h2 : a < i.addr + i.bytes.length
    · have : a - i.addr < i.bytes.length := by omega
      simp [h, h2, this, List.getD_eq_getElem?_getD]
    · have : i.bytes.length ≤ a - i.addr := by omega
      simp [h, h2, this]
  · simp [h]

theorem get_images (images : List Image) (a : Nat) : ∀ (m : Memory) (b : Option Byte) (d : Byte),
    Memory.get m a = b.getD d →
    Memory.get (images.foldl (fun m image => m.setAll image.addr image.bytes) m) a
      = (images.foldl (fun b image => (image.byteAt a).or b) b).getD d := by
  induction images with
  | nil => intro m b d h; exact h
  | cons i images ih =>
    intro m b d h
    refine ih _ _ _ ?_
    rw [get_setAll_image, h]
    cases hi : i.byteAt a <;> simp [hi]

/-- The memory of a launch holds the bytes the loader wrote last. -/
theorem Launch.get_memory (l : Launch) (a : Nat) : Memory.get l.memory a = (l.written a).getD Memory.unlisted :=
  get_images l.images a [] none _ rfl

/-- What construction says of a launch it accepts. -/
theorem Launch.boot_ok {l : Launch} {s : State} (h : l.boot = .ok s) :
    l.wellFormed = true ∧ l.text.all Slot.wellFormed = true ∧ s = l.ready := by
  unfold Launch.boot at h
  split at h
  · cases h
  · split at h
    · cases h
    · exact ⟨by simp_all, by simp_all, by simpa using h.symm⟩

/-- In the first state of a run, every byte the loader wrote reads as it was last written: static data, dynamic memory
and the text image alike (00_scope.md R4, 20_memory.md R45, R56). -/
theorem Launch.byteAt_of_written {l : Launch} {s : State} {a : Nat} {b : Byte} (h : l.boot = .ok s)
    (hb : l.written a = some b) : s.byteAt a = b := by
  obtain ⟨hw, -, rfl⟩ := Launch.boot_ok h
  have hm : Memory.get l.ready.mem a = b := by
    show Memory.get l.memory a = b
    rw [Launch.get_memory, hb, Option.getD_some]
  unfold State.byteAt
  split
  · exact hm
  · cases ht : l.ready.textByte a with
    | none => exact hm
    | some c =>
      have hin : l.ready.inText a 1 = true := by
        by_contra hn
        simp [State.textByte, hn] at ht
      have hr : l.cfg.textBase ≤ a ∧ a + 1 ≤ l.cfg.textBase + 4 * l.text.length := by
        obtain ⟨h1, h2⟩ := Bool.and_eq_true_iff.mp hin
        exact ⟨of_decide_eq_true h1, of_decide_eq_true h2⟩
      simp only [Launch.wellFormed, Launch.textImageAgrees, Bool.and_eq_true, List.all_eq_true, List.mem_range] at hw
      have := hw.2 (a - l.cfg.textBase) (by omega)
      rw [Nat.add_sub_cancel' hr.1, hb, ht] at this
      simpa using this

end Sys2Proof.Machine
end

