-- ==== Sys2Proof/Laws/Ops.lean ====
section
/-! SUPPORT. One lemma for each shared operation that says everything it does, in the terms of Safety.lean. -/

namespace Sys2Proof.Machine

theorem completes_next {i : Instr} {s t : State} {P : State → Prop} (h : exec i s = .next t) (p : P t) :
    Completes i s P := ⟨t, h, p⟩

/-! ### What each update changes -/

theorem unchanged_self (s : State) : Unchanged s s := by intro p _; cases p <;> simp [Part.same]

theorem writesX_setX (s : State) (r : Reg) (v : Word) : WritesX s (s.setX r v) r v :=
  ⟨fun q => State.getX_setX s r q v, by intro p hp; cases p <;> simp_all [Part.same]⟩

theorem writesF_setF (s : State) (r : FReg) (v : Word) : WritesF s (s.setF r v) r v :=
  ⟨fun q => State.getF_setF s r q v, by intro p hp; cases p <;> simp_all [Part.same]⟩

theorem writesFD_setFD (s : State) (r : FReg) (v : DWord) : WritesFD s (s.setFD r v) r v :=
  ⟨fun q => State.getF_setFD s r q v, by intro p hp; cases p <;> simp_all [Part.same]⟩

theorem writesHiLo_setHiLo (s : State) (v : DWord) :
    WritesHiLo s (s.setHiLo v) (v.extractLsb' 32 32) (v.extractLsb' 0 32) :=
  ⟨rfl, rfl, by intro p hp; cases p <;> simp_all [Part.same]⟩

theorem writesHiLo_putDivision (s : State) (q r : Int) : WritesHiLo s (s.putDivision q r) (W r) (W q) :=
  ⟨rfl, rfl, by intro p hp; cases p <;> simp_all [Part.same]⟩

theorem writesFlag_setCC (s : State) (k : CC) (b : Bool) : WritesFlag s (s.setCC k b) k b :=
  ⟨fun j => State.getCC_setCC s k j b, by intro p hp; cases p <;> simp_all [Part.same]⟩

theorem jumpsTo_setPc (s : State) (a : Word) : JumpsTo s (s.setPc a) a :=
  ⟨rfl, by intro p hp; cases p <;> simp_all [Part.same]⟩

theorem raises_takeFault (s : State) (k : FaultKind) (b : Option Word) : Raises s (s.takeFault ⟨k, b⟩) k b :=
  ⟨rfl, rfl, rfl, by intro p hp; cases p <;> simp_all [Part.same]⟩

theorem outputs_emit (s : State) (e : OutEvent) : Outputs s (s.emit e) [e] :=
  ⟨rfl, by intro p hp; cases p <;> simp_all [Part.same]⟩

theorem outputs_write (s : State) (t : List Byte) : Outputs s (s.write t) (textEvents t) :=
  ⟨by simp, by intro p hp; cases p <;> simp_all [Part.same]⟩

/-! ### Results that complete or raise -/

@[simp] theorem complete_ok {α : Type} (s : State) (v : α) (k : α → State) : s.complete (.ok v) k = .next (k v) := rfl

@[simp] theorem complete_error {α : Type} (s : State) (r : Raise) (k : α → State) :
    s.complete (.error r) k = .next (s.takeFault r) := rfl

/-- `complete` always answers a next state. -/
theorem complete_cases {α : Type} (s : State) (e : Except Raise α) (k : α → State) :
    (∃ r, e = .error r ∧ s.complete e k = .next (s.takeFault r)) ∨ (∃ v, e = .ok v ∧ s.complete e k = .next (k v)) := by
  cases e with
  | error r => exact .inl ⟨r, rfl, rfl⟩
  | ok v => exact .inr ⟨v, rfl, rfl⟩

theorem putChecked_in {s : State} {rd : Reg} {z : Int} (h : inWord z) : s.putChecked rd z = .next (s.setX rd (W z)) :=
  if_pos h

theorem putChecked_out {s : State} {rd : Reg} {z : Int} (h : ¬ inWord z) :
    s.putChecked rd z = .next (s.takeFault ⟨.arithmeticOverflow, none⟩) := if_neg h

/-! ### The access primitives (20_memory.md R47 to R50) -/

theorem memRead_misaligned {s : State} {a : Word} {n : Nat} (h : a.toNat % n ≠ 0) :
    s.memRead a n = .error ⟨.misalignedAddress, some a⟩ := if_pos h

theorem memRead_out {s : State} {a : Word} {n : Nat} (h : a.toNat % n = 0) (h' : s.readAdmitted a.toNat n = false) :
    s.memRead a n = .error ⟨.memoryOutOfBounds, some a⟩ := by simp [State.memRead, h, h']

theorem memRead_ok {s : State} {a : Word} {n : Nat} (h : a.toNat % n = 0) (h' : s.readAdmitted a.toNat n = true) :
    s.memRead a n = .ok (s.valueOf a.toNat n) := by simp [State.memRead, h, h', compose_bytesAt]

theorem memWrite_misaligned {s : State} {a : Word} {n v : Nat} (h : a.toNat % n ≠ 0) :
    s.memWrite a n v = .error ⟨.misalignedAddress, some a⟩ := if_pos h

theorem memWrite_out {s : State} {a : Word} {n v : Nat} (h : a.toNat % n = 0)
    (h' : s.writeAdmitted a.toNat n = false) : s.memWrite a n v = .error ⟨.memoryOutOfBounds, some a⟩ := by
  simp [State.memWrite, h, h']

theorem memWrite_ok {s : State} {a : Word} {n v : Nat} (h : a.toNat % n = 0) (h' : s.writeAdmitted a.toNat n = true) :
    s.memWrite a n v = .ok (s.putBytes a.toNat (split s.cfg.endian n v)) := by simp [State.memWrite, h, h']

/-- All that `memWrite` can answer. -/
theorem memWrite_cases (s : State) (a : Word) (n v : Nat) :
    (∃ k, s.memWrite a n v = .error ⟨k, some a⟩)
      ∨ (s.writeAdmitted a.toNat n = true
        ∧ s.memWrite a n v = .ok (s.putBytes a.toNat (split s.cfg.endian n v))) := by
  by_cases h : a.toNat % n = 0
  · by_cases h' : s.writeAdmitted a.toNat n = true
    · exact .inr ⟨h', memWrite_ok h h'⟩
    · exact .inl ⟨_, memWrite_out h (by simpa using h')⟩
  · exact .inl ⟨_, memWrite_misaligned h⟩

/-- All that `memRead` can answer. -/
theorem memRead_cases (s : State) (a : Word) (n : Nat) :
    (∃ k, s.memRead a n = .error ⟨k, some a⟩) ∨ s.memRead a n = .ok (s.valueOf a.toNat n) := by
  by_cases h : a.toNat % n = 0
  · by_cases h' : s.readAdmitted a.toNat n = true
    · exact .inr (memRead_ok h h')
    · exact .inl ⟨_, memRead_out h (by simpa using h')⟩
  · exact .inl ⟨_, memRead_misaligned h⟩

theorem readPart_out {s : State} {ea : Word} {lo n : Nat} (h : s.readAdmitted lo n = false) :
    s.readPart ea lo n = .error ⟨.memoryOutOfBounds, some ea⟩ := by simp [State.readPart, h]

theorem readPart_ok {s : State} {ea : Word} {lo n : Nat} (h : s.readAdmitted lo n = true) :
    s.readPart ea lo n = .ok (s.valueOf lo n) := by simp [State.readPart, h, compose_bytesAt]

theorem writePart_out {s : State} {ea : Word} {lo n v : Nat} (h : s.writeAdmitted lo n = false) :
    s.writePart ea lo n v = .error ⟨.memoryOutOfBounds, some ea⟩ := by simp [State.writePart, h]

theorem writePart_ok {s : State} {ea : Word} {lo n v : Nat} (h : s.writeAdmitted lo n = true) :
    s.writePart ea lo n v = .ok (s.putBytes lo (split s.cfg.endian n v)) := by simp [State.writePart, h]

/-- A byte access is always aligned. -/
theorem memRead_one (s : State) (a : Word) :
    s.memRead a 1 = if s.readAdmitted a.toNat 1 then .ok (s.byteAt a.toNat).toNat
      else .error ⟨.memoryOutOfBounds, some a⟩ := by
  by_cases h : s.readAdmitted a.toNat 1 = true
  · rw [memRead_ok (Nat.mod_one _) h, if_pos h]
    congr 1
    unfold State.valueOf
    cases s.cfg.endian <;> simp
  · rw [memRead_out (Nat.mod_one _) (by simpa using h), if_neg h]

/-! ### Fetch (20_memory.md R51, 70_reset_and_hazards.md R332) -/

/-- All that a step can be: nothing in a terminal state, a fetch fault, a reserved word, a refused record, or the
meaning of a well-formed instruction on the advanced state. -/
theorem step_cases (s : State) :
    ((s.run = .halted ∨ s.run = .faulted) ∧ step s = .fault .runEnded)
      ∨ ((s.run = .ready ∨ s.run = .running)
        ∧ ((∃ k, step s = .next ((s.setRun .running).takeFaultAt s.pc ⟨k, some s.pc⟩))
          ∨ (∃ w, step s = .next ((s.setRun .running).advance.takeReserved w))
          ∨ step s = .refused .illFormedRecord
          ∨ ∃ i : Instr, (i.wellFormed = true ∨ ∃ w, decode s.pc w = .ok i)
            ∧ step s = exec i (s.setRun .running).advance)) := by
  have key : ∀ u : State, u.pc = s.pc →
      (∃ k, u.fetchSlot = .done (u.takeFaultAt s.pc ⟨k, some s.pc⟩))
        ∨ (∃ w, u.fetchSlot = .done (u.advance.takeReserved w))
        ∨ u.fetchSlot = .refuse .illFormedRecord
        ∨ ∃ i : Instr, (i.wellFormed = true ∨ ∃ w, decode s.pc w = .ok i) ∧ u.fetchSlot = .run i u.advance := by
    intro u hpc
    unfold State.fetchSlot
    split
    · exact .inl ⟨_, by rw [hpc]⟩
    · split
      · split
        · rename_i slot _
          unfold State.decodeSlot
          cases slot with
          | record i =>
            by_cases hw : i.wellFormed = true
            · exact .inr (.inr (.inr ⟨i, .inl hw, by simp [hw]⟩))
            · exact .inr (.inr (.inl (by simp [hw])))
          | word w =>
            cases hd : decode u.pc w with
            | error e => exact .inr (.inl ⟨w, by simp [hd]⟩)
            | ok i => exact .inr (.inr (.inr ⟨i, .inr ⟨w, hpc ▸ hd⟩, by simp [hd]⟩))
        · exact .inl ⟨_, by rw [hpc]⟩
      · exact .inl ⟨_, by rw [hpc]⟩
  have run : ∀ u : State, u.pc = s.pc → s.fetch = u.fetchSlot →
      (∃ k, step s = .next (u.takeFaultAt s.pc ⟨k, some s.pc⟩))
        ∨ (∃ w, step s = .next (u.advance.takeReserved w))
        ∨ step s = .refused .illFormedRecord
        ∨ ∃ i : Instr, (i.wellFormed = true ∨ ∃ w, decode s.pc w = .ok i) ∧ step s = exec i u.advance := by
    intro u hpc hf
    rcases key u hpc with ⟨k, h⟩ | ⟨w, h⟩ | h | ⟨i, hi, h⟩
    · exact .inl ⟨k, by simp [step, hf, h]⟩
    · exact .inr (.inl ⟨w, by simp [step, hf, h]⟩)
    · exact .inr (.inr (.inl (by simp [step, hf, h])))
    · exact .inr (.inr (.inr ⟨i, hi, by simp [step, hf, h]⟩))
  cases hr : s.run with
  | halted => exact .inl ⟨.inl rfl, by simp [step, State.fetch, hr]⟩
  | faulted => exact .inl ⟨.inr rfl, by simp [step, State.fetch, hr]⟩
  | ready => exact .inr ⟨.inl rfl, run (s.setRun .running) rfl (by simp [State.fetch, hr])⟩
  | running =>
    refine .inr ⟨.inr rfl, run (s.setRun .running) rfl ?_⟩
    have : s.setRun .running = s := by cases s; simp_all [State.setRun]
    simp [State.fetch, hr, this]

end Sys2Proof.Machine
end

