-- ==== Sys2Proof/Laws/Exec.lean ====
section
/-! SUPPORT. All that an instruction can do to a state, said once: `exec_effect` and, for the services, `execSyscall_effect`.
A frame or an invariant is a short case analysis of these. -/

namespace Sys2Proof.Machine

/-- The next states of a service. -/
inductive ServiceEffect (s : State) : State → Prop where
  | nothing : ServiceEffect s s
  | raises (r : Raise) : ServiceEffect s (s.takeFault r)
  | outputs (es : List OutEvent) : ServiceEffect s (s.setOut (s.out ++ es))
  | rejects (l : List Byte) (ls : List (List Byte)) (r : Raise) :
      s.input = l :: ls → ServiceEffect s ((s.setInput ls).takeFault r)
  | reads (l : List Byte) (ls : List (List Byte)) (v : Word) :
      (s.getX 2).toInt = 5 → s.input = l :: ls → ServiceEffect s ((s.setInput ls).setX 2 v)
  | parses (v : Word) : (s.getX 2).toInt = 6 → ServiceEffect s (s.setX 2 v)
  | stores (l : List Byte) (ls : List (List Byte)) :
      (s.getX 2).toInt = 8 → s.input = l :: ls → 1 ≤ (s.getX 5).toInt →
      (s.setInput ls).firstUnwritable (storedLine (s.getX 5).toInt l).length (s.getX 4) = none →
      ServiceEffect s ((s.setInput ls).putEach (s.getX 4) (storedLine (s.getX 5).toInt l))
  | grows (p : Word × Word) :
      (s.getX 2).toInt = 9 → s.sbrk (s.getX 4) = .ok p → ServiceEffect s ((s.setHeapPtr p.2).setX 2 p.1)
  | exits (es : List OutEvent) (code : Int) : ServiceEffect s ((s.setOut (s.out ++ es)).halt code)
  | seeds (g : Nat) : (s.getX 2).toInt = 40 → ServiceEffect s (s.setGen g)
  | draws (g : Nat) (v : Word) :
      (s.getX 2).toInt = 41 ∨ (s.getX 2).toInt = 42 →
      ServiceEffect s ((s.setGen g).setX (RandDest.reg s.cfg.randDest) v)

/-- The next states of an instruction. -/
inductive Effect (i : Instr) (s : State) : State → Prop where
  | nothing : Effect i s s
  | raises (r : Raise) : Effect i s (s.takeFault r)
  | setsX (r : Reg) (v : Word) : r ∈ i.intDests s → Effect i s (s.setX r v)
  | setsF (d : Nat) (r : FReg) (v : Word) : r ∈ i.floatDests → Effect i s ((s.setDraws d).setF r v)
  | setsFD (d : Nat) (r : FReg) (v : DWord) :
      r ∈ i.floatDests → r + 1 ∈ i.floatDests → Effect i s ((s.setDraws d).setFD r v)
  | setsHiLo (v : DWord) : i.writesHiLo = true → Effect i s (s.setHiLo v)
  | divides (q r : Int) : i.writesHiLo = true → Effect i s (s.putDivision q r)
  | setsFlag (k : CC) (b : Bool) : i.flagDest = some k → Effect i s (s.setCC k b)
  | jumps (a : Word) : i.transfers = true → Effect i s (s.setPc a)
  | links (r : Reg) (v a : Word) : i.transfers = true → r ∈ i.intDests s → Effect i s ((s.setX r v).setPc a)
  | stores (a : Nat) (bs : List Byte) :
      s.writeAdmitted a bs.length = true → (∀ b, a ≤ b → b < a + bs.length → i.storesTo s b) →
      Effect i s (s.putBytes a bs)
  | service (t : State) : i = .syscall → ServiceEffect s t → Effect i s t

/-! ### The tables of Safety.lean at one instruction -/

@[simp] theorem intDests_syscall (s : State) : Instr.intDests .syscall s = s.serviceDest := rfl

@[simp] theorem floatDests_syscall : Instr.floatDests .syscall = [] := rfl

@[simp] theorem flagDest_syscall : Instr.flagDest .syscall = none := rfl

@[simp] theorem writesHiLo_syscall : Instr.writesHiLo .syscall = false := rfl

@[simp] theorem transfers_syscall : Instr.transfers .syscall = false := rfl

theorem serviceDest_v0 {s : State} (h : (s.getX 2).toInt = 5 ∨ (s.getX 2).toInt = 6 ∨ (s.getX 2).toInt = 9) :
    s.serviceDest = [2] := if_pos h

theorem serviceDest_rand {s : State} (h : (s.getX 2).toInt = 41 ∨ (s.getX 2).toInt = 42) :
    s.serviceDest = [RandDest.reg s.cfg.randDest] := by
  rw [State.serviceDest, if_neg (by omega), if_pos h]

/-! ### The services -/

/-- A numeral that is stored is stored as its Word. -/
theorem putNumeral_next {s t : State} {v : Int} (h : s.putNumeral v = .next t) : t = s.setX 2 (W v) := by
  unfold State.putNumeral at h
  split at h <;> cases h
  rfl

theorem service_of_lookup {z : Int} {n : Service} (h : serviceOf z = some n) : (z, n) ∈ serviceNumbers :=
  List.lookup_eq_some_iff.mp h |>.elim fun _ h => by
    obtain ⟨_, h, _⟩ := h
    rw [h]
    simp

theorem write_effect (s : State) (t : List Byte) : ServiceEffect s (s.write t) := by
  unfold State.write
  split
  · exact .nothing
  · exact .outputs _

theorem halt_effect (s : State) (code : Int) : ServiceEffect s (s.halt code) := by
  have h : s.setOut (s.out ++ []) = s := by simp [State.setOut]
  simpa only [h] using ServiceEffect.exits (s := s) [] code

theorem writeCount_halt_effect (s : State) (code : Int) : ServiceEffect s (s.writeCount.halt code) := by
  unfold State.writeCount State.write
  split
  · split
    · exact halt_effect s code
    · exact .exits _ _
  · exact halt_effect s code

theorem withString_effect {s t : State} {r : StringRead} {k : List Byte → Result} (h : s.withString r k = .next t)
    (hk : ∀ b, k b = .next t → ServiceEffect s t) : ServiceEffect s t := by
  cases r with
  | done b => exact hk b h
  | raised e => cases h; exact .raises e
  | endless => cases h

/-- All that a service can do. -/
theorem execSyscall_effect {s t : State} (h : execSyscall s = .next t) : ServiceEffect s t := by
  unfold execSyscall at h
  split at h
  · rename_i n hn
    have hz := service_of_lookup hn
    cases n with
    | printInt => cases h; exact write_effect _ _
    | printFloat => cases h; exact .outputs _
    | printDouble => cases h; exact .outputs _
    | printString => exact withString_effect h fun b hb => by cases hb; exact write_effect _ _
    | readInt =>
      have h5 : (s.getX v0).toInt = 5 := by simpa [serviceNumbers] using hz
      simp only [State.service, serviceReadInt, State.readLine] at h
      cases hi : s.input with
      | nil => simp [hi] at h
      | cons l ls =>
        simp only [hi] at h
        split at h
        · cases h; exact .rejects l ls _ hi
        · rw [putNumeral_next h]; exact .reads l ls _ h5 hi
    | atoi =>
      have h6 : (s.getX v0).toInt = 6 := by simpa [serviceNumbers] using hz
      refine withString_effect h fun b hb => ?_
      split at hb
      · cases hb; exact .raises _
      · rw [putNumeral_next hb]; exact .parses _ h6
    | readString =>
      have h8 : (s.getX v0).toInt = 8 := by simpa [serviceNumbers] using hz
      simp only [State.service, serviceReadString, State.readLine] at h
      split at h
      · cases h; exact .nothing
      · rename_i hp
        cases hi : s.input with
        | nil => simp [hi] at h
        | cons l ls =>
          simp only [hi] at h
          split at h <;> cases h
          · exact .rejects l ls _ hi
          · rename_i hw
            exact .stores l ls h8 hi (show 1 ≤ (s.getX a1).toInt by omega) hw
    | sbrk =>
      have h9 : (s.getX v0).toInt = 9 := by simpa [serviceNumbers] using hz
      rcases complete_cases s (s.sbrk (s.getX a0)) (fun p => (s.setHeapPtr p.2).setX v0 p.1) with
        ⟨r, _, hr⟩ | ⟨p, hp, hr⟩
      · cases h.symm.trans hr; exact .raises r
      · cases h.symm.trans hr; exact .grows p h9 hp
    | exit => cases h; exact writeCount_halt_effect _ _
    | printChar =>
      simp only [State.service, servicePrintChar] at h
      split at h <;> cases h
      · exact write_effect _ _
      · exact .raises _
    | exit2 => cases h; exact writeCount_halt_effect _ _
    | memoryDump =>
      rcases complete_cases s (s.readEach (s.getX a1).toNat (s.getX a0)) (fun bs => s.emit (.memDump (s.getX a0) bs)) with
        ⟨r, _, hr⟩ | ⟨p, hp, hr⟩
      · cases h.symm.trans hr; exact .raises r
      · cases h.symm.trans hr; exact .outputs _
    | registerDump => cases h; exact .outputs _
    | dumpFiles => cases h; exact .outputs _
    | printHex => cases h; exact .outputs _
    | printBin => cases h; exact write_effect _ _
    | printUint => cases h; exact write_effect _ _
    | seed =>
      have h40 : (s.getX v0).toInt = 40 := by simpa [serviceNumbers] using hz
      cases h; exact .seeds _ h40
    | randInt =>
      have h41 : (s.getX v0).toInt = 41 := by simpa [serviceNumbers] using hz
      cases h; exact .draws _ _ (.inl h41)
    | randIntRange =>
      have h42 : (s.getX v0).toInt = 42 := by simpa [serviceNumbers] using hz
      simp only [State.service, serviceRandIntRange] at h
      split at h <;> cases h
      · exact .raises _
      · exact .draws _ _ (.inr h42)
  · cases h; exact .raises _

/-! ### The shapes of the other meanings -/

theorem complete_effect {i : Instr} {s t : State} {α : Type} {e : Except Raise α} {k : α → State}
    (h : s.complete e k = .next t) (hk : ∀ v, Effect i s (k v)) : Effect i s t := by
  rcases complete_cases s e k with ⟨r, _, hr⟩ | ⟨v, _, hr⟩
  · cases h.symm.trans hr; exact .raises r
  · cases h.symm.trans hr; exact hk v

theorem putChecked_effect {i : Instr} {s t : State} {rd : Reg} {z : Int} (h : s.putChecked rd z = .next t)
    (hd : rd ∈ i.intDests s) : Effect i s t := by
  by_cases hz : inWord z
  · cases h.symm.trans (putChecked_in hz); exact .setsX _ _ hd
  · cases h.symm.trans (putChecked_out hz); exact .raises _

theorem putSingle_effect {i : Instr} {s : State} {fd : FReg} (r : Option Nat) (hd : fd ∈ i.floatDests) :
    Effect i s (s.putSingle fd r) := by
  cases r with
  | none => exact .setsF _ _ _ hd
  | some b => exact .setsF s.draws _ _ hd

theorem putDouble_effect {i : Instr} {s : State} {fd : FReg} (r : Option Nat) (hd : fd ∈ i.floatDests)
    (hd' : fd + 1 ∈ i.floatDests) : Effect i s (s.putDouble fd r) := by
  cases r with
  | none => exact .setsFD _ _ _ hd hd'
  | some b => exact .setsFD s.draws _ _ hd hd'

theorem branchIf_effect {i : Instr} {s t : State} {c : Bool} {a : Word} (h : s.branchIf c a = .next t)
    (hi : i.transfers = true) : Effect i s t := by
  cases c <;> cases h
  · exact .nothing
  · exact .jumps _ hi

theorem moveIf_effect {i : Instr} {s t : State} {c : Bool} {rd rs : Reg} (h : s.moveIf c rd rs = .next t)
    (hd : rd ∈ i.intDests s) : Effect i s t := by
  cases c <;> cases h
  · exact .nothing
  · exact .setsX _ _ hd

theorem store_effect {i : Instr} {s t : State} {ea : Word} {n v : Nat} (h : s.store ea n v = .next t)
    (hs : ∀ b, ea.toNat ≤ b → b < ea.toNat + n → i.storesTo s b) : Effect i s t := by
  rcases memWrite_cases s ea n v with ⟨k, hk⟩ | ⟨ha, hk⟩
  · rw [State.store, hk] at h; cases h; exact .raises _
  · rw [State.store, hk] at h; cases h; exact .stores _ _ (by simpa using ha) (by simpa using hs)

theorem storePart_effect {i : Instr} {s t : State} {rt : Reg} {ea : Word} {part : Nat × Nat} {field : Word → Nat → Nat}
    (h : s.storePart rt ea part field = .next t) (hs : ∀ b, part.1 ≤ b → b < part.1 + part.2 → i.storesTo s b) :
    Effect i s t := by
  by_cases ha : s.writeAdmitted part.1 part.2 = true
  · rw [State.storePart, writePart_ok ha] at h; cases h; exact .stores _ _ (by simpa using ha) (by simpa using hs)
  · rw [State.storePart, writePart_out (by simpa using ha)] at h; cases h; exact .raises _

theorem mem_leftPart {e : Endian} {ea : Word} {b : Nat} (h : (leftPart e ea).1 ≤ b)
    (h' : b < (leftPart e ea).1 + (leftPart e ea).2) : inPart (e == .little) ea b := by
  cases e <;> simp [leftPart, byteIndex, inPart] at h h' ⊢ <;> omega

theorem mem_rightPart {e : Endian} {ea : Word} {b : Nat} (h : (rightPart e ea).1 ≤ b)
    (h' : b < (rightPart e ea).1 + (rightPart e ea).2) : inPart (e == .big) ea b := by
  cases e <;> simp [rightPart, byteIndex, inPart] at h h' ⊢ <;> omega

/-- All that an instruction can do. -/
theorem exec_effect {i : Instr} {s t : State} (h : exec i s = .next t) : Effect i s t := by
  cases i with
  | add _ _ _ => exact putChecked_effect h (.head _)
  | addu _ _ _ => cases h; exact .setsX _ _ (.head _)
  | sub _ _ _ => exact putChecked_effect h (.head _)
  | subu _ _ _ => cases h; exact .setsX _ _ (.head _)
  | addi _ _ _ => exact putChecked_effect h (.head _)
  | addiu _ _ _ => cases h; exact .setsX _ _ (.head _)
  | slt _ _ _ => cases h; exact .setsX _ _ (.head _)
  | sltu _ _ _ => cases h; exact .setsX _ _ (.head _)
  | slti _ _ _ => cases h; exact .setsX _ _ (.head _)
  | sltiu _ _ _ => cases h; exact .setsX _ _ (.head _)
  | lui _ _ => exact complete_effect h fun _ => .setsX _ _ (.head _)
  | and _ _ _ => cases h; exact .setsX _ _ (.head _)
  | or _ _ _ => cases h; exact .setsX _ _ (.head _)
  | nor _ _ _ => cases h; exact .setsX _ _ (.head _)
  | xor _ _ _ => cases h; exact .setsX _ _ (.head _)
  | andi _ _ _ => exact complete_effect h fun _ => .setsX _ _ (.head _)
  | ori _ _ _ => exact complete_effect h fun _ => .setsX _ _ (.head _)
  | xori _ _ _ => exact complete_effect h fun _ => .setsX _ _ (.head _)
  | sll _ _ _ => exact complete_effect h fun _ => .setsX _ _ (.head _)
  | srl _ _ _ => exact complete_effect h fun _ => .setsX _ _ (.head _)
  | sra _ _ _ => exact complete_effect h fun _ => .setsX _ _ (.head _)
  | sllv _ _ _ => cases h; exact .setsX _ _ (.head _)
  | srlv _ _ _ => cases h; exact .setsX _ _ (.head _)
  | srav _ _ _ => cases h; exact .setsX _ _ (.head _)
  | mul _ _ _ => cases h; exact .setsX _ _ (.head _)
  | mult _ _ => cases h; exact .setsHiLo _ rfl
  | multu _ _ => cases h; exact .setsHiLo _ rfl
  | div _ _ => simp only [exec, execDiv] at h; split at h <;> cases h; exacts [.raises _, .divides _ _ rfl]
  | divu _ _ => simp only [exec, execDivu] at h; split at h <;> cases h; exacts [.raises _, .divides _ _ rfl]
  | madd _ _ => cases h; exact .setsHiLo _ rfl
  | maddu _ _ => cases h; exact .setsHiLo _ rfl
  | msub _ _ => cases h; exact .setsHiLo _ rfl
  | msubu _ _ => cases h; exact .setsHiLo _ rfl
  | mfhi _ => cases h; exact .setsX _ _ (.head _)
  | mflo _ => cases h; exact .setsX _ _ (.head _)
  | addS _ _ _ => cases h; exact putSingle_effect _ (.head _)
  | subS _ _ _ => cases h; exact putSingle_effect _ (.head _)
  | mulS _ _ _ => cases h; exact putSingle_effect _ (.head _)
  | divS _ _ _ => cases h; exact putSingle_effect _ (.head _)
  | sqrtS _ _ => cases h; exact putSingle_effect _ (.head _)
  | addD _ _ _ => cases h; exact putDouble_effect _ (.head _) (.tail _ (.head _))
  | subD _ _ _ => cases h; exact putDouble_effect _ (.head _) (.tail _ (.head _))
  | mulD _ _ _ => cases h; exact putDouble_effect _ (.head _) (.tail _ (.head _))
  | divD _ _ _ => cases h; exact putDouble_effect _ (.head _) (.tail _ (.head _))
  | sqrtD _ _ => cases h; exact putDouble_effect _ (.head _) (.tail _ (.head _))
  | roundWS _ _ => cases h; exact .setsF s.draws _ _ (.head _)
  | truncWS _ _ => cases h; exact .setsF s.draws _ _ (.head _)
  | ceilWS _ _ => cases h; exact .setsF s.draws _ _ (.head _)
  | floorWS _ _ => cases h; exact .setsF s.draws _ _ (.head _)
  | roundWD _ _ => cases h; exact .setsF s.draws _ _ (.head _)
  | truncWD _ _ => cases h; exact .setsF s.draws _ _ (.head _)
  | ceilWD _ _ => cases h; exact .setsF s.draws _ _ (.head _)
  | floorWD _ _ => cases h; exact .setsF s.draws _ _ (.head _)
  | cvtSD _ _ => cases h; exact putSingle_effect _ (.head _)
  | cvtSW _ _ => cases h; exact putSingle_effect _ (.head _)
  | cvtDS _ _ => cases h; exact putDouble_effect _ (.head _) (.tail _ (.head _))
  | cvtDW _ _ => cases h; exact putDouble_effect _ (.head _) (.tail _ (.head _))
  | cvtWS _ _ => cases h; exact .setsF s.draws _ _ (.head _)
  | cvtWD _ _ => cases h; exact .setsF s.draws _ _ (.head _)
  | mfc1 _ _ => cases h; exact .setsX _ _ (.head _)
  | mtc1 _ _ => cases h; exact .setsF s.draws _ _ (.head _)
  | lb _ _ _ => exact complete_effect h fun _ => .setsX _ _ (.head _)
  | lbu _ _ _ => exact complete_effect h fun _ => .setsX _ _ (.head _)
  | lh _ _ _ => exact complete_effect h fun _ => .setsX _ _ (.head _)
  | lhu _ _ _ => exact complete_effect h fun _ => .setsX _ _ (.head _)
  | lw _ _ _ => exact complete_effect h fun _ => .setsX _ _ (.head _)
  | sb _ _ _ => exact store_effect h fun b h1 h2 => show b = (s.ea _ _).toNat by omega
  | sh _ _ _ => exact store_effect h fun _ h1 h2 => ⟨h1, h2⟩
  | sw _ _ _ => exact store_effect h fun _ h1 h2 => ⟨h1, h2⟩
  | lwl _ _ _ => exact complete_effect h fun _ => .setsX _ _ (.head _)
  | lwr _ _ _ => exact complete_effect h fun _ => .setsX _ _ (.head _)
  | swl _ _ _ => exact storePart_effect h fun _ => mem_leftPart
  | swr _ _ _ => exact storePart_effect h fun _ => mem_rightPart
  | lwc1 _ _ _ => exact complete_effect h fun _ => .setsF s.draws _ _ (.head _)
  | swc1 _ _ _ => exact store_effect h fun _ h1 h2 => ⟨h1, h2⟩
  | ldc1 _ _ _ => exact complete_effect h fun _ => .setsFD s.draws _ _ (.head _) (.tail _ (.head _))
  | sdc1 _ _ _ => exact store_effect h fun _ h1 h2 => ⟨h1, h2⟩
  | beq _ _ _ => exact branchIf_effect h rfl
  | bne _ _ _ => exact branchIf_effect h rfl
  | blez _ _ => exact branchIf_effect h rfl
  | bgtz _ _ => exact branchIf_effect h rfl
  | bltz _ _ => exact branchIf_effect h rfl
  | bgez _ _ => exact branchIf_effect h rfl
  | j _ => cases h; exact .jumps _ rfl
  | jal _ => cases h; exact .links _ _ _ rfl (.head _)
  | jr _ => cases h; exact .jumps _ rfl
  | jalr _ _ => cases h; exact .links _ _ _ rfl (.head _)
  | cEqS _ _ _ => cases h; exact .setsFlag _ _ rfl
  | cLtS _ _ _ => cases h; exact .setsFlag _ _ rfl
  | cLeS _ _ _ => cases h; exact .setsFlag _ _ rfl
  | cEqD _ _ _ => cases h; exact .setsFlag _ _ rfl
  | cLtD _ _ _ => cases h; exact .setsFlag _ _ rfl
  | cLeD _ _ _ => cases h; exact .setsFlag _ _ rfl
  | bc1t _ _ => exact branchIf_effect h rfl
  | bc1f _ _ => exact branchIf_effect h rfl
  | movt _ _ _ => exact moveIf_effect h (.head _)
  | movf _ _ _ => exact moveIf_effect h (.head _)
  | movn _ _ _ => exact moveIf_effect h (.head _)
  | movz _ _ _ => exact moveIf_effect h (.head _)
  | clz _ _ => cases h; exact .setsX _ _ (.head _)
  | clo _ _ => cases h; exact .setsX _ _ (.head _)
  | syscall => exact .service t rfl (execSyscall_effect h)

end Sys2Proof.Machine
end

