-- ==== Sys2Proof/Laws/PerInstr.lean ====
section
/-! SUPPORT. Facts about each instruction as syntax, one lemma a constructor. `EncodesToRow`: the word the encoder builds
for an instruction fits the row the opcode table gives it, whatever its operands and address (30_encoding.md R88). -/

namespace Sys2Proof.Laws

theorem packR_and (op m₁ : BitVec 6) (rs m₂ rt m₃ rd m₄ sa m₅ : BitVec 5) (f m₆ : BitVec 6) :
    packR op rs rt rd sa f &&& packR m₁ m₂ m₃ m₄ m₅ m₆
      = packR (op &&& m₁) (rs &&& m₂) (rt &&& m₃) (rd &&& m₄) (sa &&& m₅) (f &&& m₆) := by
  apply BitVec.eq_of_getLsbD_eq
  intro i _
  simp only [packR, BitVec.getLsbD_and, BitVec.getLsbD_append]
  repeat' split
  all_goals rfl

theorem packI_and (op m₁ : BitVec 6) (rs m₂ rt m₃ : BitVec 5) (imm m₄ : BitVec 16) :
    packI op rs rt imm &&& packI m₁ m₂ m₃ m₄ = packI (op &&& m₁) (rs &&& m₂) (rt &&& m₃) (imm &&& m₄) := by
  apply BitVec.eq_of_getLsbD_eq
  intro i _
  simp only [packI, BitVec.getLsbD_and, BitVec.getLsbD_append]
  repeat' split
  all_goals rfl

theorem packJ_and (op m₁ : BitVec 6) (index m₂ : BitVec 26) :
    packJ op index &&& packJ m₁ m₂ = packJ (op &&& m₁) (index &&& m₂) := by
  apply BitVec.eq_of_getLsbD_eq
  intro i _
  simp only [packJ, BitVec.getLsbD_and, BitVec.getLsbD_append]
  repeat' split
  all_goals rfl

theorem packR_fits {n : String} {op m₁ b₁ : BitVec 6} {rs m₂ b₂ rt m₃ b₃ rd m₄ b₄ sa m₅ b₅ : BitVec 5}
    {f m₆ b₆ : BitVec 6} (h : op &&& m₁ = b₁ ∧ rs &&& m₂ = b₂ ∧ rt &&& m₃ = b₃ ∧ rd &&& m₄ = b₄ ∧ sa &&& m₅ = b₅
      ∧ f &&& m₆ = b₆) :
    Row.fits ⟨n, packR b₁ b₂ b₃ b₄ b₅ b₆, packR m₁ m₂ m₃ m₄ m₅ m₆⟩ (packR op rs rt rd sa f) = true := by
  obtain ⟨rfl, rfl, rfl, rfl, rfl, rfl⟩ := h
  simp [Row.fits, packR_and]

theorem packI_fits {n : String} {op m₁ b₁ : BitVec 6} {rs m₂ b₂ rt m₃ b₃ : BitVec 5} {imm m₄ b₄ : BitVec 16}
    (h : op &&& m₁ = b₁ ∧ rs &&& m₂ = b₂ ∧ rt &&& m₃ = b₃ ∧ imm &&& m₄ = b₄) :
    Row.fits ⟨n, packI b₁ b₂ b₃ b₄, packI m₁ m₂ m₃ m₄⟩ (packI op rs rt imm) = true := by
  obtain ⟨rfl, rfl, rfl, rfl⟩ := h
  simp [Row.fits, packI_and]

theorem packJ_fits {n : String} {op m₁ b₁ : BitVec 6} {index m₂ b₂ : BitVec 26}
    (h : op &&& m₁ = b₁ ∧ index &&& m₂ = b₂) :
    Row.fits ⟨n, packJ b₁ b₂, packJ m₁ m₂⟩ (packJ op index) = true := by
  obtain ⟨rfl, rfl⟩ := h
  simp [Row.fits, packJ_and]

namespace EncodesToRow

/-- The word of the instruction at any address fits the row of the instruction. -/
def Statement (i : Instr) : Prop := ∀ a : Word, i.row.fits (i.toWord a) = true

theorem add (rd rs rt : Reg) : Statement (.add rd rs rt) := fun _ =>
  packR_fits (m₁ := 0x3F) (m₂ := 0x00) (m₃ := 0x00) (m₄ := 0x00) (m₅ := 0x1F) (m₆ := 0x3F)
    (b₁ := 0x00) (b₂ := 0x00) (b₃ := 0x00) (b₄ := 0x00) (b₅ := 0x00) (b₆ := 0x20)
    ⟨rfl, BitVec.and_zero, BitVec.and_zero, BitVec.and_zero, rfl, rfl⟩

theorem addu (rd rs rt : Reg) : Statement (.addu rd rs rt) := fun _ =>
  packR_fits (m₁ := 0x3F) (m₂ := 0x00) (m₃ := 0x00) (m₄ := 0x00) (m₅ := 0x1F) (m₆ := 0x3F)
    (b₁ := 0x00) (b₂ := 0x00) (b₃ := 0x00) (b₄ := 0x00) (b₅ := 0x00) (b₆ := 0x21)
    ⟨rfl, BitVec.and_zero, BitVec.and_zero, BitVec.and_zero, rfl, rfl⟩

theorem sub (rd rs rt : Reg) : Statement (.sub rd rs rt) := fun _ =>
  packR_fits (m₁ := 0x3F) (m₂ := 0x00) (m₃ := 0x00) (m₄ := 0x00) (m₅ := 0x1F) (m₆ := 0x3F)
    (b₁ := 0x00) (b₂ := 0x00) (b₃ := 0x00) (b₄ := 0x00) (b₅ := 0x00) (b₆ := 0x22)
    ⟨rfl, BitVec.and_zero, BitVec.and_zero, BitVec.and_zero, rfl, rfl⟩

theorem subu (rd rs rt : Reg) : Statement (.subu rd rs rt) := fun _ =>
  packR_fits (m₁ := 0x3F) (m₂ := 0x00) (m₃ := 0x00) (m₄ := 0x00) (m₅ := 0x1F) (m₆ := 0x3F)
    (b₁ := 0x00) (b₂ := 0x00) (b₃ := 0x00) (b₄ := 0x00) (b₅ := 0x00) (b₆ := 0x23)
    ⟨rfl, BitVec.and_zero, BitVec.and_zero, BitVec.and_zero, rfl, rfl⟩

theorem addi (rt rs : Reg) (imm : Int) : Statement (.addi rt rs imm) := fun _ =>
  packI_fits (m₁ := 0x3F) (m₂ := 0x00) (m₃ := 0x00) (m₄ := 0x0000)
    (b₁ := 0x08) (b₂ := 0x00) (b₃ := 0x00) (b₄ := 0x0000)
    ⟨rfl, BitVec.and_zero, BitVec.and_zero, BitVec.and_zero⟩

theorem addiu (rt rs : Reg) (imm : Int) : Statement (.addiu rt rs imm) := fun _ =>
  packI_fits (m₁ := 0x3F) (m₂ := 0x00) (m₃ := 0x00) (m₄ := 0x0000)
    (b₁ := 0x09) (b₂ := 0x00) (b₃ := 0x00) (b₄ := 0x0000)
    ⟨rfl, BitVec.and_zero, BitVec.and_zero, BitVec.and_zero⟩

theorem slt (rd rs rt : Reg) : Statement (.slt rd rs rt) := fun _ =>
  packR_fits (m₁ := 0x3F) (m₂ := 0x00) (m₃ := 0x00) (m₄ := 0x00) (m₅ := 0x1F) (m₆ := 0x3F)
    (b₁ := 0x00) (b₂ := 0x00) (b₃ := 0x00) (b₄ := 0x00) (b₅ := 0x00) (b₆ := 0x2A)
    ⟨rfl, BitVec.and_zero, BitVec.and_zero, BitVec.and_zero, rfl, rfl⟩

theorem sltu (rd rs rt : Reg) : Statement (.sltu rd rs rt) := fun _ =>
  packR_fits (m₁ := 0x3F) (m₂ := 0x00) (m₃ := 0x00) (m₄ := 0x00) (m₅ := 0x1F) (m₆ := 0x3F)
    (b₁ := 0x00) (b₂ := 0x00) (b₃ := 0x00) (b₄ := 0x00) (b₅ := 0x00) (b₆ := 0x2B)
    ⟨rfl, BitVec.and_zero, BitVec.and_zero, BitVec.and_zero, rfl, rfl⟩

theorem slti (rt rs : Reg) (imm : Int) : Statement (.slti rt rs imm) := fun _ =>
  packI_fits (m₁ := 0x3F) (m₂ := 0x00) (m₃ := 0x00) (m₄ := 0x0000)
    (b₁ := 0x0A) (b₂ := 0x00) (b₃ := 0x00) (b₄ := 0x0000)
    ⟨rfl, BitVec.and_zero, BitVec.and_zero, BitVec.and_zero⟩

theorem sltiu (rt rs : Reg) (imm : Int) : Statement (.sltiu rt rs imm) := fun _ =>
  packI_fits (m₁ := 0x3F) (m₂ := 0x00) (m₃ := 0x00) (m₄ := 0x0000)
    (b₁ := 0x0B) (b₂ := 0x00) (b₃ := 0x00) (b₄ := 0x0000)
    ⟨rfl, BitVec.and_zero, BitVec.and_zero, BitVec.and_zero⟩

theorem lui (rt : Reg) (imm : Int) : Statement (.lui rt imm) := fun _ =>
  packI_fits (m₁ := 0x3F) (m₂ := 0x1F) (m₃ := 0x00) (m₄ := 0x0000)
    (b₁ := 0x0F) (b₂ := 0x00) (b₃ := 0x00) (b₄ := 0x0000)
    ⟨rfl, rfl, BitVec.and_zero, BitVec.and_zero⟩

theorem and (rd rs rt : Reg) : Statement (.and rd rs rt) := fun _ =>
  packR_fits (m₁ := 0x3F) (m₂ := 0x00) (m₃ := 0x00) (m₄ := 0x00) (m₅ := 0x1F) (m₆ := 0x3F)
    (b₁ := 0x00) (b₂ := 0x00) (b₃ := 0x00) (b₄ := 0x00) (b₅ := 0x00) (b₆ := 0x24)
    ⟨rfl, BitVec.and_zero, BitVec.and_zero, BitVec.and_zero, rfl, rfl⟩

theorem or (rd rs rt : Reg) : Statement (.or rd rs rt) := fun _ =>
  packR_fits (m₁ := 0x3F) (m₂ := 0x00) (m₃ := 0x00) (m₄ := 0x00) (m₅ := 0x1F) (m₆ := 0x3F)
    (b₁ := 0x00) (b₂ := 0x00) (b₃ := 0x00) (b₄ := 0x00) (b₅ := 0x00) (b₆ := 0x25)
    ⟨rfl, BitVec.and_zero, BitVec.and_zero, BitVec.and_zero, rfl, rfl⟩

theorem nor (rd rs rt : Reg) : Statement (.nor rd rs rt) := fun _ =>
  packR_fits (m₁ := 0x3F) (m₂ := 0x00) (m₃ := 0x00) (m₄ := 0x00) (m₅ := 0x1F) (m₆ := 0x3F)
    (b₁ := 0x00) (b₂ := 0x00) (b₃ := 0x00) (b₄ := 0x00) (b₅ := 0x00) (b₆ := 0x27)
    ⟨rfl, BitVec.and_zero, BitVec.and_zero, BitVec.and_zero, rfl, rfl⟩

theorem xor (rd rs rt : Reg) : Statement (.xor rd rs rt) := fun _ =>
  packR_fits (m₁ := 0x3F) (m₂ := 0x00) (m₃ := 0x00) (m₄ := 0x00) (m₅ := 0x1F) (m₆ := 0x3F)
    (b₁ := 0x00) (b₂ := 0x00) (b₃ := 0x00) (b₄ := 0x00) (b₅ := 0x00) (b₆ := 0x26)
    ⟨rfl, BitVec.and_zero, BitVec.and_zero, BitVec.and_zero, rfl, rfl⟩

theorem andi (rt rs : Reg) (imm : Int) : Statement (.andi rt rs imm) := fun _ =>
  packI_fits (m₁ := 0x3F) (m₂ := 0x00) (m₃ := 0x00) (m₄ := 0x0000)
    (b₁ := 0x0C) (b₂ := 0x00) (b₃ := 0x00) (b₄ := 0x0000)
    ⟨rfl, BitVec.and_zero, BitVec.and_zero, BitVec.and_zero⟩

theorem ori (rt rs : Reg) (imm : Int) : Statement (.ori rt rs imm) := fun _ =>
  packI_fits (m₁ := 0x3F) (m₂ := 0x00) (m₃ := 0x00) (m₄ := 0x0000)
    (b₁ := 0x0D) (b₂ := 0x00) (b₃ := 0x00) (b₄ := 0x0000)
    ⟨rfl, BitVec.and_zero, BitVec.and_zero, BitVec.and_zero⟩

theorem xori (rt rs : Reg) (imm : Int) : Statement (.xori rt rs imm) := fun _ =>
  packI_fits (m₁ := 0x3F) (m₂ := 0x00) (m₃ := 0x00) (m₄ := 0x0000)
    (b₁ := 0x0E) (b₂ := 0x00) (b₃ := 0x00) (b₄ := 0x0000)
    ⟨rfl, BitVec.and_zero, BitVec.and_zero, BitVec.and_zero⟩

theorem sll (rd rt : Reg) (sa : Int) : Statement (.sll rd rt sa) := fun _ =>
  packR_fits (m₁ := 0x3F) (m₂ := 0x1F) (m₃ := 0x00) (m₄ := 0x00) (m₅ := 0x00) (m₆ := 0x3F)
    (b₁ := 0x00) (b₂ := 0x00) (b₃ := 0x00) (b₄ := 0x00) (b₅ := 0x00) (b₆ := 0x00)
    ⟨rfl, rfl, BitVec.and_zero, BitVec.and_zero, BitVec.and_zero, rfl⟩

theorem srl (rd rt : Reg) (sa : Int) : Statement (.srl rd rt sa) := fun _ =>
  packR_fits (m₁ := 0x3F) (m₂ := 0x1F) (m₃ := 0x00) (m₄ := 0x00) (m₅ := 0x00) (m₆ := 0x3F)
    (b₁ := 0x00) (b₂ := 0x00) (b₃ := 0x00) (b₄ := 0x00) (b₅ := 0x00) (b₆ := 0x02)
    ⟨rfl, rfl, BitVec.and_zero, BitVec.and_zero, BitVec.and_zero, rfl⟩

theorem sra (rd rt : Reg) (sa : Int) : Statement (.sra rd rt sa) := fun _ =>
  packR_fits (m₁ := 0x3F) (m₂ := 0x1F) (m₃ := 0x00) (m₄ := 0x00) (m₅ := 0x00) (m₆ := 0x3F)
    (b₁ := 0x00) (b₂ := 0x00) (b₃ := 0x00) (b₄ := 0x00) (b₅ := 0x00) (b₆ := 0x03)
    ⟨rfl, rfl, BitVec.and_zero, BitVec.and_zero, BitVec.and_zero, rfl⟩

theorem sllv (rd rt rs : Reg) : Statement (.sllv rd rt rs) := fun _ =>
  packR_fits (m₁ := 0x3F) (m₂ := 0x00) (m₃ := 0x00) (m₄ := 0x00) (m₅ := 0x1F) (m₆ := 0x3F)
    (b₁ := 0x00) (b₂ := 0x00) (b₃ := 0x00) (b₄ := 0x00) (b₅ := 0x00) (b₆ := 0x04)
    ⟨rfl, BitVec.and_zero, BitVec.and_zero, BitVec.and_zero, rfl, rfl⟩

theorem srlv (rd rt rs : Reg) : Statement (.srlv rd rt rs) := fun _ =>
  packR_fits (m₁ := 0x3F) (m₂ := 0x00) (m₃ := 0x00) (m₄ := 0x00) (m₅ := 0x1F) (m₆ := 0x3F)
    (b₁ := 0x00) (b₂ := 0x00) (b₃ := 0x00) (b₄ := 0x00) (b₅ := 0x00) (b₆ := 0x06)
    ⟨rfl, BitVec.and_zero, BitVec.and_zero, BitVec.and_zero, rfl, rfl⟩

theorem srav (rd rt rs : Reg) : Statement (.srav rd rt rs) := fun _ =>
  packR_fits (m₁ := 0x3F) (m₂ := 0x00) (m₃ := 0x00) (m₄ := 0x00) (m₅ := 0x1F) (m₆ := 0x3F)
    (b₁ := 0x00) (b₂ := 0x00) (b₃ := 0x00) (b₄ := 0x00) (b₅ := 0x00) (b₆ := 0x07)
    ⟨rfl, BitVec.and_zero, BitVec.and_zero, BitVec.and_zero, rfl, rfl⟩

theorem mul (rd rs rt : Reg) : Statement (.mul rd rs rt) := fun _ =>
  packR_fits (m₁ := 0x3F) (m₂ := 0x00) (m₃ := 0x00) (m₄ := 0x00) (m₅ := 0x1F) (m₆ := 0x3F)
    (b₁ := 0x1C) (b₂ := 0x00) (b₃ := 0x00) (b₄ := 0x00) (b₅ := 0x00) (b₆ := 0x02)
    ⟨rfl, BitVec.and_zero, BitVec.and_zero, BitVec.and_zero, rfl, rfl⟩

theorem mult (rs rt : Reg) : Statement (.mult rs rt) := fun _ =>
  packR_fits (m₁ := 0x3F) (m₂ := 0x00) (m₃ := 0x00) (m₄ := 0x1F) (m₅ := 0x1F) (m₆ := 0x3F)
    (b₁ := 0x00) (b₂ := 0x00) (b₃ := 0x00) (b₄ := 0x00) (b₅ := 0x00) (b₆ := 0x18)
    ⟨rfl, BitVec.and_zero, BitVec.and_zero, rfl, rfl, rfl⟩

theorem multu (rs rt : Reg) : Statement (.multu rs rt) := fun _ =>
  packR_fits (m₁ := 0x3F) (m₂ := 0x00) (m₃ := 0x00) (m₄ := 0x1F) (m₅ := 0x1F) (m₆ := 0x3F)
    (b₁ := 0x00) (b₂ := 0x00) (b₃ := 0x00) (b₄ := 0x00) (b₅ := 0x00) (b₆ := 0x19)
    ⟨rfl, BitVec.and_zero, BitVec.and_zero, rfl, rfl, rfl⟩

theorem div (rs rt : Reg) : Statement (.div rs rt) := fun _ =>
  packR_fits (m₁ := 0x3F) (m₂ := 0x00) (m₃ := 0x00) (m₄ := 0x1F) (m₅ := 0x1F) (m₆ := 0x3F)
    (b₁ := 0x00) (b₂ := 0x00) (b₃ := 0x00) (b₄ := 0x00) (b₅ := 0x00) (b₆ := 0x1A)
    ⟨rfl, BitVec.and_zero, BitVec.and_zero, rfl, rfl, rfl⟩

theorem divu (rs rt : Reg) : Statement (.divu rs rt) := fun _ =>
  packR_fits (m₁ := 0x3F) (m₂ := 0x00) (m₃ := 0x00) (m₄ := 0x1F) (m₅ := 0x1F) (m₆ := 0x3F)
    (b₁ := 0x00) (b₂ := 0x00) (b₃ := 0x00) (b₄ := 0x00) (b₅ := 0x00) (b₆ := 0x1B)
    ⟨rfl, BitVec.and_zero, BitVec.and_zero, rfl, rfl, rfl⟩

theorem madd (rs rt : Reg) : Statement (.madd rs rt) := fun _ =>
  packR_fits (m₁ := 0x3F) (m₂ := 0x00) (m₃ := 0x00) (m₄ := 0x1F) (m₅ := 0x1F) (m₆ := 0x3F)
    (b₁ := 0x1C) (b₂ := 0x00) (b₃ := 0x00) (b₄ := 0x00) (b₅ := 0x00) (b₆ := 0x00)
    ⟨rfl, BitVec.and_zero, BitVec.and_zero, rfl, rfl, rfl⟩

theorem maddu (rs rt : Reg) : Statement (.maddu rs rt) := fun _ =>
  packR_fits (m₁ := 0x3F) (m₂ := 0x00) (m₃ := 0x00) (m₄ := 0x1F) (m₅ := 0x1F) (m₆ := 0x3F)
    (b₁ := 0x1C) (b₂ := 0x00) (b₃ := 0x00) (b₄ := 0x00) (b₅ := 0x00) (b₆ := 0x01)
    ⟨rfl, BitVec.and_zero, BitVec.and_zero, rfl, rfl, rfl⟩

theorem msub (rs rt : Reg) : Statement (.msub rs rt) := fun _ =>
  packR_fits (m₁ := 0x3F) (m₂ := 0x00) (m₃ := 0x00) (m₄ := 0x1F) (m₅ := 0x1F) (m₆ := 0x3F)
    (b₁ := 0x1C) (b₂ := 0x00) (b₃ := 0x00) (b₄ := 0x00) (b₅ := 0x00) (b₆ := 0x04)
    ⟨rfl, BitVec.and_zero, BitVec.and_zero, rfl, rfl, rfl⟩

theorem msubu (rs rt : Reg) : Statement (.msubu rs rt) := fun _ =>
  packR_fits (m₁ := 0x3F) (m₂ := 0x00) (m₃ := 0x00) (m₄ := 0x1F) (m₅ := 0x1F) (m₆ := 0x3F)
    (b₁ := 0x1C) (b₂ := 0x00) (b₃ := 0x00) (b₄ := 0x00) (b₅ := 0x00) (b₆ := 0x05)
    ⟨rfl, BitVec.and_zero, BitVec.and_zero, rfl, rfl, rfl⟩

theorem mfhi (rd : Reg) : Statement (.mfhi rd) := fun _ =>
  packR_fits (m₁ := 0x3F) (m₂ := 0x1F) (m₃ := 0x1F) (m₄ := 0x00) (m₅ := 0x1F) (m₆ := 0x3F)
    (b₁ := 0x00) (b₂ := 0x00) (b₃ := 0x00) (b₄ := 0x00) (b₅ := 0x00) (b₆ := 0x10)
    ⟨rfl, rfl, rfl, BitVec.and_zero, rfl, rfl⟩

theorem mflo (rd : Reg) : Statement (.mflo rd) := fun _ =>
  packR_fits (m₁ := 0x3F) (m₂ := 0x1F) (m₃ := 0x1F) (m₄ := 0x00) (m₅ := 0x1F) (m₆ := 0x3F)
    (b₁ := 0x00) (b₂ := 0x00) (b₃ := 0x00) (b₄ := 0x00) (b₅ := 0x00) (b₆ := 0x12)
    ⟨rfl, rfl, rfl, BitVec.and_zero, rfl, rfl⟩

theorem addS (fd fs ft : FReg) : Statement (.addS fd fs ft) := fun _ =>
  packR_fits (m₁ := 0x3F) (m₂ := 0x1F) (m₃ := 0x00) (m₄ := 0x00) (m₅ := 0x00) (m₆ := 0x3F)
    (b₁ := 0x11) (b₂ := 0x10) (b₃ := 0x00) (b₄ := 0x00) (b₅ := 0x00) (b₆ := 0x00)
    ⟨rfl, rfl, BitVec.and_zero, BitVec.and_zero, BitVec.and_zero, rfl⟩

theorem subS (fd fs ft : FReg) : Statement (.subS fd fs ft) := fun _ =>
  packR_fits (m₁ := 0x3F) (m₂ := 0x1F) (m₃ := 0x00) (m₄ := 0x00) (m₅ := 0x00) (m₆ := 0x3F)
    (b₁ := 0x11) (b₂ := 0x10) (b₃ := 0x00) (b₄ := 0x00) (b₅ := 0x00) (b₆ := 0x01)
    ⟨rfl, rfl, BitVec.and_zero, BitVec.and_zero, BitVec.and_zero, rfl⟩

theorem mulS (fd fs ft : FReg) : Statement (.mulS fd fs ft) := fun _ =>
  packR_fits (m₁ := 0x3F) (m₂ := 0x1F) (m₃ := 0x00) (m₄ := 0x00) (m₅ := 0x00) (m₆ := 0x3F)
    (b₁ := 0x11) (b₂ := 0x10) (b₃ := 0x00) (b₄ := 0x00) (b₅ := 0x00) (b₆ := 0x02)
    ⟨rfl, rfl, BitVec.and_zero, BitVec.and_zero, BitVec.and_zero, rfl⟩

theorem divS (fd fs ft : FReg) : Statement (.divS fd fs ft) := fun _ =>
  packR_fits (m₁ := 0x3F) (m₂ := 0x1F) (m₃ := 0x00) (m₄ := 0x00) (m₅ := 0x00) (m₆ := 0x3F)
    (b₁ := 0x11) (b₂ := 0x10) (b₃ := 0x00) (b₄ := 0x00) (b₅ := 0x00) (b₆ := 0x03)
    ⟨rfl, rfl, BitVec.and_zero, BitVec.and_zero, BitVec.and_zero, rfl⟩

theorem sqrtS (fd fs : FReg) : Statement (.sqrtS fd fs) := fun _ =>
  packR_fits (m₁ := 0x3F) (m₂ := 0x1F) (m₃ := 0x1F) (m₄ := 0x00) (m₅ := 0x00) (m₆ := 0x3F)
    (b₁ := 0x11) (b₂ := 0x10) (b₃ := 0x00) (b₄ := 0x00) (b₅ := 0x00) (b₆ := 0x04)
    ⟨rfl, rfl, rfl, BitVec.and_zero, BitVec.and_zero, rfl⟩

theorem addD (fd fs ft : FReg) : Statement (.addD fd fs ft) := fun _ =>
  packR_fits (m₁ := 0x3F) (m₂ := 0x1F) (m₃ := 0x00) (m₄ := 0x00) (m₅ := 0x00) (m₆ := 0x3F)
    (b₁ := 0x11) (b₂ := 0x11) (b₃ := 0x00) (b₄ := 0x00) (b₅ := 0x00) (b₆ := 0x00)
    ⟨rfl, rfl, BitVec.and_zero, BitVec.and_zero, BitVec.and_zero, rfl⟩

theorem subD (fd fs ft : FReg) : Statement (.subD fd fs ft) := fun _ =>
  packR_fits (m₁ := 0x3F) (m₂ := 0x1F) (m₃ := 0x00) (m₄ := 0x00) (m₅ := 0x00) (m₆ := 0x3F)
    (b₁ := 0x11) (b₂ := 0x11) (b₃ := 0x00) (b₄ := 0x00) (b₅ := 0x00) (b₆ := 0x01)
    ⟨rfl, rfl, BitVec.and_zero, BitVec.and_zero, BitVec.and_zero, rfl⟩

theorem mulD (fd fs ft : FReg) : Statement (.mulD fd fs ft) := fun _ =>
  packR_fits (m₁ := 0x3F) (m₂ := 0x1F) (m₃ := 0x00) (m₄ := 0x00) (m₅ := 0x00) (m₆ := 0x3F)
    (b₁ := 0x11) (b₂ := 0x11) (b₃ := 0x00) (b₄ := 0x00) (b₅ := 0x00) (b₆ := 0x02)
    ⟨rfl, rfl, BitVec.and_zero, BitVec.and_zero, BitVec.and_zero, rfl⟩

theorem divD (fd fs ft : FReg) : Statement (.divD fd fs ft) := fun _ =>
  packR_fits (m₁ := 0x3F) (m₂ := 0x1F) (m₃ := 0x00) (m₄ := 0x00) (m₅ := 0x00) (m₆ := 0x3F)
    (b₁ := 0x11) (b₂ := 0x11) (b₃ := 0x00) (b₄ := 0x00) (b₅ := 0x00) (b₆ := 0x03)
    ⟨rfl, rfl, BitVec.and_zero, BitVec.and_zero, BitVec.and_zero, rfl⟩

theorem sqrtD (fd fs : FReg) : Statement (.sqrtD fd fs) := fun _ =>
  packR_fits (m₁ := 0x3F) (m₂ := 0x1F) (m₃ := 0x1F) (m₄ := 0x00) (m₅ := 0x00) (m₆ := 0x3F)
    (b₁ := 0x11) (b₂ := 0x11) (b₃ := 0x00) (b₄ := 0x00) (b₅ := 0x00) (b₆ := 0x04)
    ⟨rfl, rfl, rfl, BitVec.and_zero, BitVec.and_zero, rfl⟩

theorem roundWS (fd fs : FReg) : Statement (.roundWS fd fs) := fun _ =>
  packR_fits (m₁ := 0x3F) (m₂ := 0x1F) (m₃ := 0x1F) (m₄ := 0x00) (m₅ := 0x00) (m₆ := 0x3F)
    (b₁ := 0x11) (b₂ := 0x10) (b₃ := 0x00) (b₄ := 0x00) (b₅ := 0x00) (b₆ := 0x0C)
    ⟨rfl, rfl, rfl, BitVec.and_zero, BitVec.and_zero, rfl⟩

theorem truncWS (fd fs : FReg) : Statement (.truncWS fd fs) := fun _ =>
  packR_fits (m₁ := 0x3F) (m₂ := 0x1F) (m₃ := 0x1F) (m₄ := 0x00) (m₅ := 0x00) (m₆ := 0x3F)
    (b₁ := 0x11) (b₂ := 0x10) (b₃ := 0x00) (b₄ := 0x00) (b₅ := 0x00) (b₆ := 0x0D)
    ⟨rfl, rfl, rfl, BitVec.and_zero, BitVec.and_zero, rfl⟩

theorem ceilWS (fd fs : FReg) : Statement (.ceilWS fd fs) := fun _ =>
  packR_fits (m₁ := 0x3F) (m₂ := 0x1F) (m₃ := 0x1F) (m₄ := 0x00) (m₅ := 0x00) (m₆ := 0x3F)
    (b₁ := 0x11) (b₂ := 0x10) (b₃ := 0x00) (b₄ := 0x00) (b₅ := 0x00) (b₆ := 0x0E)
    ⟨rfl, rfl, rfl, BitVec.and_zero, BitVec.and_zero, rfl⟩

theorem floorWS (fd fs : FReg) : Statement (.floorWS fd fs) := fun _ =>
  packR_fits (m₁ := 0x3F) (m₂ := 0x1F) (m₃ := 0x1F) (m₄ := 0x00) (m₅ := 0x00) (m₆ := 0x3F)
    (b₁ := 0x11) (b₂ := 0x10) (b₃ := 0x00) (b₄ := 0x00) (b₅ := 0x00) (b₆ := 0x0F)
    ⟨rfl, rfl, rfl, BitVec.and_zero, BitVec.and_zero, rfl⟩

theorem roundWD (fd fs : FReg) : Statement (.roundWD fd fs) := fun _ =>
  packR_fits (m₁ := 0x3F) (m₂ := 0x1F) (m₃ := 0x1F) (m₄ := 0x00) (m₅ := 0x00) (m₆ := 0x3F)
    (b₁ := 0x11) (b₂ := 0x11) (b₃ := 0x00) (b₄ := 0x00) (b₅ := 0x00) (b₆ := 0x0C)
    ⟨rfl, rfl, rfl, BitVec.and_zero, BitVec.and_zero, rfl⟩

theorem truncWD (fd fs : FReg) : Statement (.truncWD fd fs) := fun _ =>
  packR_fits (m₁ := 0x3F) (m₂ := 0x1F) (m₃ := 0x1F) (m₄ := 0x00) (m₅ := 0x00) (m₆ := 0x3F)
    (b₁ := 0x11) (b₂ := 0x11) (b₃ := 0x00) (b₄ := 0x00) (b₅ := 0x00) (b₆ := 0x0D)
    ⟨rfl, rfl, rfl, BitVec.and_zero, BitVec.and_zero, rfl⟩

theorem ceilWD (fd fs : FReg) : Statement (.ceilWD fd fs) := fun _ =>
  packR_fits (m₁ := 0x3F) (m₂ := 0x1F) (m₃ := 0x1F) (m₄ := 0x00) (m₅ := 0x00) (m₆ := 0x3F)
    (b₁ := 0x11) (b₂ := 0x11) (b₃ := 0x00) (b₄ := 0x00) (b₅ := 0x00) (b₆ := 0x0E)
    ⟨rfl, rfl, rfl, BitVec.and_zero, BitVec.and_zero, rfl⟩

theorem floorWD (fd fs : FReg) : Statement (.floorWD fd fs) := fun _ =>
  packR_fits (m₁ := 0x3F) (m₂ := 0x1F) (m₃ := 0x1F) (m₄ := 0x00) (m₅ := 0x00) (m₆ := 0x3F)
    (b₁ := 0x11) (b₂ := 0x11) (b₃ := 0x00) (b₄ := 0x00) (b₅ := 0x00) (b₆ := 0x0F)
    ⟨rfl, rfl, rfl, BitVec.and_zero, BitVec.and_zero, rfl⟩

theorem cvtSD (fd fs : FReg) : Statement (.cvtSD fd fs) := fun _ =>
  packR_fits (m₁ := 0x3F) (m₂ := 0x1F) (m₃ := 0x1F) (m₄ := 0x00) (m₅ := 0x00) (m₆ := 0x3F)
    (b₁ := 0x11) (b₂ := 0x11) (b₃ := 0x00) (b₄ := 0x00) (b₅ := 0x00) (b₆ := 0x20)
    ⟨rfl, rfl, rfl, BitVec.and_zero, BitVec.and_zero, rfl⟩

theorem cvtSW (fd fs : FReg) : Statement (.cvtSW fd fs) := fun _ =>
  packR_fits (m₁ := 0x3F) (m₂ := 0x1F) (m₃ := 0x1F) (m₄ := 0x00) (m₅ := 0x00) (m₆ := 0x3F)
    (b₁ := 0x11) (b₂ := 0x14) (b₃ := 0x00) (b₄ := 0x00) (b₅ := 0x00) (b₆ := 0x20)
    ⟨rfl, rfl, rfl, BitVec.and_zero, BitVec.and_zero, rfl⟩

theorem cvtDS (fd fs : FReg) : Statement (.cvtDS fd fs) := fun _ =>
  packR_fits (m₁ := 0x3F) (m₂ := 0x1F) (m₃ := 0x1F) (m₄ := 0x00) (m₅ := 0x00) (m₆ := 0x3F)
    (b₁ := 0x11) (b₂ := 0x10) (b₃ := 0x00) (b₄ := 0x00) (b₅ := 0x00) (b₆ := 0x21)
    ⟨rfl, rfl, rfl, BitVec.and_zero, BitVec.and_zero, rfl⟩

theorem cvtDW (fd fs : FReg) : Statement (.cvtDW fd fs) := fun _ =>
  packR_fits (m₁ := 0x3F) (m₂ := 0x1F) (m₃ := 0x1F) (m₄ := 0x00) (m₅ := 0x00) (m₆ := 0x3F)
    (b₁ := 0x11) (b₂ := 0x14) (b₃ := 0x00) (b₄ := 0x00) (b₅ := 0x00) (b₆ := 0x21)
    ⟨rfl, rfl, rfl, BitVec.and_zero, BitVec.and_zero, rfl⟩

theorem cvtWS (fd fs : FReg) : Statement (.cvtWS fd fs) := fun _ =>
  packR_fits (m₁ := 0x3F) (m₂ := 0x1F) (m₃ := 0x1F) (m₄ := 0x00) (m₅ := 0x00) (m₆ := 0x3F)
    (b₁ := 0x11) (b₂ := 0x10) (b₃ := 0x00) (b₄ := 0x00) (b₅ := 0x00) (b₆ := 0x24)
    ⟨rfl, rfl, rfl, BitVec.and_zero, BitVec.and_zero, rfl⟩

theorem cvtWD (fd fs : FReg) : Statement (.cvtWD fd fs) := fun _ =>
  packR_fits (m₁ := 0x3F) (m₂ := 0x1F) (m₃ := 0x1F) (m₄ := 0x00) (m₅ := 0x00) (m₆ := 0x3F)
    (b₁ := 0x11) (b₂ := 0x11) (b₃ := 0x00) (b₄ := 0x00) (b₅ := 0x00) (b₆ := 0x24)
    ⟨rfl, rfl, rfl, BitVec.and_zero, BitVec.and_zero, rfl⟩

theorem mfc1 (rt : Reg) (fs : FReg) : Statement (.mfc1 rt fs) := fun _ =>
  packR_fits (m₁ := 0x3F) (m₂ := 0x1F) (m₃ := 0x00) (m₄ := 0x00) (m₅ := 0x1F) (m₆ := 0x3F)
    (b₁ := 0x11) (b₂ := 0x00) (b₃ := 0x00) (b₄ := 0x00) (b₅ := 0x00) (b₆ := 0x00)
    ⟨rfl, rfl, BitVec.and_zero, BitVec.and_zero, rfl, rfl⟩

theorem mtc1 (rt : Reg) (fs : FReg) : Statement (.mtc1 rt fs) := fun _ =>
  packR_fits (m₁ := 0x3F) (m₂ := 0x1F) (m₃ := 0x00) (m₄ := 0x00) (m₅ := 0x1F) (m₆ := 0x3F)
    (b₁ := 0x11) (b₂ := 0x04) (b₃ := 0x00) (b₄ := 0x00) (b₅ := 0x00) (b₆ := 0x00)
    ⟨rfl, rfl, BitVec.and_zero, BitVec.and_zero, rfl, rfl⟩

theorem lb (rt : Reg) (offset : Int) (base : Reg) : Statement (.lb rt offset base) := fun _ =>
  packI_fits (m₁ := 0x3F) (m₂ := 0x00) (m₃ := 0x00) (m₄ := 0x0000)
    (b₁ := 0x20) (b₂ := 0x00) (b₃ := 0x00) (b₄ := 0x0000)
    ⟨rfl, BitVec.and_zero, BitVec.and_zero, BitVec.and_zero⟩

theorem lbu (rt : Reg) (offset : Int) (base : Reg) : Statement (.lbu rt offset base) := fun _ =>
  packI_fits (m₁ := 0x3F) (m₂ := 0x00) (m₃ := 0x00) (m₄ := 0x0000)
    (b₁ := 0x24) (b₂ := 0x00) (b₃ := 0x00) (b₄ := 0x0000)
    ⟨rfl, BitVec.and_zero, BitVec.and_zero, BitVec.and_zero⟩

theorem lh (rt : Reg) (offset : Int) (base : Reg) : Statement (.lh rt offset base) := fun _ =>
  packI_fits (m₁ := 0x3F) (m₂ := 0x00) (m₃ := 0x00) (m₄ := 0x0000)
    (b₁ := 0x21) (b₂ := 0x00) (b₃ := 0x00) (b₄ := 0x0000)
    ⟨rfl, BitVec.and_zero, BitVec.and_zero, BitVec.and_zero⟩

theorem lhu (rt : Reg) (offset : Int) (base : Reg) : Statement (.lhu rt offset base) := fun _ =>
  packI_fits (m₁ := 0x3F) (m₂ := 0x00) (m₃ := 0x00) (m₄ := 0x0000)
    (b₁ := 0x25) (b₂ := 0x00) (b₃ := 0x00) (b₄ := 0x0000)
    ⟨rfl, BitVec.and_zero, BitVec.and_zero, BitVec.and_zero⟩

theorem lw (rt : Reg) (offset : Int) (base : Reg) : Statement (.lw rt offset base) := fun _ =>
  packI_fits (m₁ := 0x3F) (m₂ := 0x00) (m₃ := 0x00) (m₄ := 0x0000)
    (b₁ := 0x23) (b₂ := 0x00) (b₃ := 0x00) (b₄ := 0x0000)
    ⟨rfl, BitVec.and_zero, BitVec.and_zero, BitVec.and_zero⟩

theorem sb (rt : Reg) (offset : Int) (base : Reg) : Statement (.sb rt offset base) := fun _ =>
  packI_fits (m₁ := 0x3F) (m₂ := 0x00) (m₃ := 0x00) (m₄ := 0x0000)
    (b₁ := 0x28) (b₂ := 0x00) (b₃ := 0x00) (b₄ := 0x0000)
    ⟨rfl, BitVec.and_zero, BitVec.and_zero, BitVec.and_zero⟩

theorem sh (rt : Reg) (offset : Int) (base : Reg) : Statement (.sh rt offset base) := fun _ =>
  packI_fits (m₁ := 0x3F) (m₂ := 0x00) (m₃ := 0x00) (m₄ := 0x0000)
    (b₁ := 0x29) (b₂ := 0x00) (b₃ := 0x00) (b₄ := 0x0000)
    ⟨rfl, BitVec.and_zero, BitVec.and_zero, BitVec.and_zero⟩

theorem sw (rt : Reg) (offset : Int) (base : Reg) : Statement (.sw rt offset base) := fun _ =>
  packI_fits (m₁ := 0x3F) (m₂ := 0x00) (m₃ := 0x00) (m₄ := 0x0000)
    (b₁ := 0x2B) (b₂ := 0x00) (b₃ := 0x00) (b₄ := 0x0000)
    ⟨rfl, BitVec.and_zero, BitVec.and_zero, BitVec.and_zero⟩

theorem lwl (rt : Reg) (offset : Int) (base : Reg) : Statement (.lwl rt offset base) := fun _ =>
  packI_fits (m₁ := 0x3F) (m₂ := 0x00) (m₃ := 0x00) (m₄ := 0x0000)
    (b₁ := 0x22) (b₂ := 0x00) (b₃ := 0x00) (b₄ := 0x0000)
    ⟨rfl, BitVec.and_zero, BitVec.and_zero, BitVec.and_zero⟩

theorem lwr (rt : Reg) (offset : Int) (base : Reg) : Statement (.lwr rt offset base) := fun _ =>
  packI_fits (m₁ := 0x3F) (m₂ := 0x00) (m₃ := 0x00) (m₄ := 0x0000)
    (b₁ := 0x26) (b₂ := 0x00) (b₃ := 0x00) (b₄ := 0x0000)
    ⟨rfl, BitVec.and_zero, BitVec.and_zero, BitVec.and_zero⟩

theorem swl (rt : Reg) (offset : Int) (base : Reg) : Statement (.swl rt offset base) := fun _ =>
  packI_fits (m₁ := 0x3F) (m₂ := 0x00) (m₃ := 0x00) (m₄ := 0x0000)
    (b₁ := 0x2A) (b₂ := 0x00) (b₃ := 0x00) (b₄ := 0x0000)
    ⟨rfl, BitVec.and_zero, BitVec.and_zero, BitVec.and_zero⟩

theorem swr (rt : Reg) (offset : Int) (base : Reg) : Statement (.swr rt offset base) := fun _ =>
  packI_fits (m₁ := 0x3F) (m₂ := 0x00) (m₃ := 0x00) (m₄ := 0x0000)
    (b₁ := 0x2E) (b₂ := 0x00) (b₃ := 0x00) (b₄ := 0x0000)
    ⟨rfl, BitVec.and_zero, BitVec.and_zero, BitVec.and_zero⟩

theorem lwc1 (ft : FReg) (offset : Int) (base : Reg) : Statement (.lwc1 ft offset base) := fun _ =>
  packI_fits (m₁ := 0x3F) (m₂ := 0x00) (m₃ := 0x00) (m₄ := 0x0000)
    (b₁ := 0x31) (b₂ := 0x00) (b₃ := 0x00) (b₄ := 0x0000)
    ⟨rfl, BitVec.and_zero, BitVec.and_zero, BitVec.and_zero⟩

theorem swc1 (ft : FReg) (offset : Int) (base : Reg) : Statement (.swc1 ft offset base) := fun _ =>
  packI_fits (m₁ := 0x3F) (m₂ := 0x00) (m₃ := 0x00) (m₄ := 0x0000)
    (b₁ := 0x39) (b₂ := 0x00) (b₃ := 0x00) (b₄ := 0x0000)
    ⟨rfl, BitVec.and_zero, BitVec.and_zero, BitVec.and_zero⟩

theorem ldc1 (ft : FReg) (offset : Int) (base : Reg) : Statement (.ldc1 ft offset base) := fun _ =>
  packI_fits (m₁ := 0x3F) (m₂ := 0x00) (m₃ := 0x00) (m₄ := 0x0000)
    (b₁ := 0x35) (b₂ := 0x00) (b₃ := 0x00) (b₄ := 0x0000)
    ⟨rfl, BitVec.and_zero, BitVec.and_zero, BitVec.and_zero⟩

theorem sdc1 (ft : FReg) (offset : Int) (base : Reg) : Statement (.sdc1 ft offset base) := fun _ =>
  packI_fits (m₁ := 0x3F) (m₂ := 0x00) (m₃ := 0x00) (m₄ := 0x0000)
    (b₁ := 0x3D) (b₂ := 0x00) (b₃ := 0x00) (b₄ := 0x0000)
    ⟨rfl, BitVec.and_zero, BitVec.and_zero, BitVec.and_zero⟩

theorem beq (rs rt : Reg) (target : Word) : Statement (.beq rs rt target) := fun _ =>
  packI_fits (m₁ := 0x3F) (m₂ := 0x00) (m₃ := 0x00) (m₄ := 0x0000)
    (b₁ := 0x04) (b₂ := 0x00) (b₃ := 0x00) (b₄ := 0x0000)
    ⟨rfl, BitVec.and_zero, BitVec.and_zero, BitVec.and_zero⟩

theorem bne (rs rt : Reg) (target : Word) : Statement (.bne rs rt target) := fun _ =>
  packI_fits (m₁ := 0x3F) (m₂ := 0x00) (m₃ := 0x00) (m₄ := 0x0000)
    (b₁ := 0x05) (b₂ := 0x00) (b₃ := 0x00) (b₄ := 0x0000)
    ⟨rfl, BitVec.and_zero, BitVec.and_zero, BitVec.and_zero⟩

theorem blez (rs : Reg) (target : Word) : Statement (.blez rs target) := fun _ =>
  packI_fits (m₁ := 0x3F) (m₂ := 0x00) (m₃ := 0x1F) (m₄ := 0x0000)
    (b₁ := 0x06) (b₂ := 0x00) (b₃ := 0x00) (b₄ := 0x0000)
    ⟨rfl, BitVec.and_zero, rfl, BitVec.and_zero⟩

theorem bgtz (rs : Reg) (target : Word) : Statement (.bgtz rs target) := fun _ =>
  packI_fits (m₁ := 0x3F) (m₂ := 0x00) (m₃ := 0x1F) (m₄ := 0x0000)
    (b₁ := 0x07) (b₂ := 0x00) (b₃ := 0x00) (b₄ := 0x0000)
    ⟨rfl, BitVec.and_zero, rfl, BitVec.and_zero⟩

theorem bltz (rs : Reg) (target : Word) : Statement (.bltz rs target) := fun _ =>
  packI_fits (m₁ := 0x3F) (m₂ := 0x00) (m₃ := 0x1F) (m₄ := 0x0000)
    (b₁ := 0x01) (b₂ := 0x00) (b₃ := 0x00) (b₄ := 0x0000)
    ⟨rfl, BitVec.and_zero, rfl, BitVec.and_zero⟩

theorem bgez (rs : Reg) (target : Word) : Statement (.bgez rs target) := fun _ =>
  packI_fits (m₁ := 0x3F) (m₂ := 0x00) (m₃ := 0x1F) (m₄ := 0x0000)
    (b₁ := 0x01) (b₂ := 0x00) (b₃ := 0x01) (b₄ := 0x0000)
    ⟨rfl, BitVec.and_zero, rfl, BitVec.and_zero⟩

theorem j (target : Word) : Statement (.j target) := fun _ =>
  packJ_fits (m₁ := 0x3F) (m₂ := 0x0000000)
    (b₁ := 0x02) (b₂ := 0x0000000)
    ⟨rfl, BitVec.and_zero⟩

theorem jal (target : Word) : Statement (.jal target) := fun _ =>
  packJ_fits (m₁ := 0x3F) (m₂ := 0x0000000)
    (b₁ := 0x03) (b₂ := 0x0000000)
    ⟨rfl, BitVec.and_zero⟩

theorem jr (rs : Reg) : Statement (.jr rs) := fun _ =>
  packR_fits (m₁ := 0x3F) (m₂ := 0x00) (m₃ := 0x1F) (m₄ := 0x1F) (m₅ := 0x1F) (m₆ := 0x3F)
    (b₁ := 0x00) (b₂ := 0x00) (b₃ := 0x00) (b₄ := 0x00) (b₅ := 0x00) (b₆ := 0x08)
    ⟨rfl, BitVec.and_zero, rfl, rfl, rfl, rfl⟩

theorem jalr (rd rs : Reg) : Statement (.jalr rd rs) := fun _ =>
  packR_fits (m₁ := 0x3F) (m₂ := 0x00) (m₃ := 0x1F) (m₄ := 0x00) (m₅ := 0x1F) (m₆ := 0x3F)
    (b₁ := 0x00) (b₂ := 0x00) (b₃ := 0x00) (b₄ := 0x00) (b₅ := 0x00) (b₆ := 0x09)
    ⟨rfl, BitVec.and_zero, rfl, BitVec.and_zero, rfl, rfl⟩

theorem cEqS (cc : CC) (fs ft : FReg) : Statement (.cEqS cc fs ft) := fun _ =>
  packR_fits (m₁ := 0x3F) (m₂ := 0x1F) (m₃ := 0x00) (m₄ := 0x00) (m₅ := 0x03) (m₆ := 0x3F)
    (b₁ := 0x11) (b₂ := 0x10) (b₃ := 0x00) (b₄ := 0x00) (b₅ := 0x00) (b₆ := 0x32)
    ⟨rfl, rfl, BitVec.and_zero, BitVec.and_zero, by revert cc; decide, rfl⟩

theorem cLtS (cc : CC) (fs ft : FReg) : Statement (.cLtS cc fs ft) := fun _ =>
  packR_fits (m₁ := 0x3F) (m₂ := 0x1F) (m₃ := 0x00) (m₄ := 0x00) (m₅ := 0x03) (m₆ := 0x3F)
    (b₁ := 0x11) (b₂ := 0x10) (b₃ := 0x00) (b₄ := 0x00) (b₅ := 0x00) (b₆ := 0x3C)
    ⟨rfl, rfl, BitVec.and_zero, BitVec.and_zero, by revert cc; decide, rfl⟩

theorem cLeS (cc : CC) (fs ft : FReg) : Statement (.cLeS cc fs ft) := fun _ =>
  packR_fits (m₁ := 0x3F) (m₂ := 0x1F) (m₃ := 0x00) (m₄ := 0x00) (m₅ := 0x03) (m₆ := 0x3F)
    (b₁ := 0x11) (b₂ := 0x10) (b₃ := 0x00) (b₄ := 0x00) (b₅ := 0x00) (b₆ := 0x3E)
    ⟨rfl, rfl, BitVec.and_zero, BitVec.and_zero, by revert cc; decide, rfl⟩

theorem cEqD (cc : CC) (fs ft : FReg) : Statement (.cEqD cc fs ft) := fun _ =>
  packR_fits (m₁ := 0x3F) (m₂ := 0x1F) (m₃ := 0x00) (m₄ := 0x00) (m₅ := 0x03) (m₆ := 0x3F)
    (b₁ := 0x11) (b₂ := 0x11) (b₃ := 0x00) (b₄ := 0x00) (b₅ := 0x00) (b₆ := 0x32)
    ⟨rfl, rfl, BitVec.and_zero, BitVec.and_zero, by revert cc; decide, rfl⟩

theorem cLtD (cc : CC) (fs ft : FReg) : Statement (.cLtD cc fs ft) := fun _ =>
  packR_fits (m₁ := 0x3F) (m₂ := 0x1F) (m₃ := 0x00) (m₄ := 0x00) (m₅ := 0x03) (m₆ := 0x3F)
    (b₁ := 0x11) (b₂ := 0x11) (b₃ := 0x00) (b₄ := 0x00) (b₅ := 0x00) (b₆ := 0x3C)
    ⟨rfl, rfl, BitVec.and_zero, BitVec.and_zero, by revert cc; decide, rfl⟩

theorem cLeD (cc : CC) (fs ft : FReg) : Statement (.cLeD cc fs ft) := fun _ =>
  packR_fits (m₁ := 0x3F) (m₂ := 0x1F) (m₃ := 0x00) (m₄ := 0x00) (m₅ := 0x03) (m₆ := 0x3F)
    (b₁ := 0x11) (b₂ := 0x11) (b₃ := 0x00) (b₄ := 0x00) (b₅ := 0x00) (b₆ := 0x3E)
    ⟨rfl, rfl, BitVec.and_zero, BitVec.and_zero, by revert cc; decide, rfl⟩

theorem bc1t (cc : CC) (target : Word) : Statement (.bc1t cc target) := fun _ =>
  packI_fits (m₁ := 0x3F) (m₂ := 0x1F) (m₃ := 0x03) (m₄ := 0x0000)
    (b₁ := 0x11) (b₂ := 0x08) (b₃ := 0x01) (b₄ := 0x0000)
    ⟨rfl, rfl, by revert cc; decide, BitVec.and_zero⟩

theorem bc1f (cc : CC) (target : Word) : Statement (.bc1f cc target) := fun _ =>
  packI_fits (m₁ := 0x3F) (m₂ := 0x1F) (m₃ := 0x03) (m₄ := 0x0000)
    (b₁ := 0x11) (b₂ := 0x08) (b₃ := 0x00) (b₄ := 0x0000)
    ⟨rfl, rfl, by revert cc; decide, BitVec.and_zero⟩

theorem movt (rd rs : Reg) (cc : CC) : Statement (.movt rd rs cc) := fun _ =>
  packR_fits (m₁ := 0x3F) (m₂ := 0x00) (m₃ := 0x03) (m₄ := 0x00) (m₅ := 0x1F) (m₆ := 0x3F)
    (b₁ := 0x00) (b₂ := 0x00) (b₃ := 0x01) (b₄ := 0x00) (b₅ := 0x00) (b₆ := 0x01)
    ⟨rfl, BitVec.and_zero, by revert cc; decide, BitVec.and_zero, rfl, rfl⟩

theorem movf (rd rs : Reg) (cc : CC) : Statement (.movf rd rs cc) := fun _ =>
  packR_fits (m₁ := 0x3F) (m₂ := 0x00) (m₃ := 0x03) (m₄ := 0x00) (m₅ := 0x1F) (m₆ := 0x3F)
    (b₁ := 0x00) (b₂ := 0x00) (b₃ := 0x00) (b₄ := 0x00) (b₅ := 0x00) (b₆ := 0x01)
    ⟨rfl, BitVec.and_zero, by revert cc; decide, BitVec.and_zero, rfl, rfl⟩

theorem movn (rd rs rt : Reg) : Statement (.movn rd rs rt) := fun _ =>
  packR_fits (m₁ := 0x3F) (m₂ := 0x00) (m₃ := 0x00) (m₄ := 0x00) (m₅ := 0x1F) (m₆ := 0x3F)
    (b₁ := 0x00) (b₂ := 0x00) (b₃ := 0x00) (b₄ := 0x00) (b₅ := 0x00) (b₆ := 0x0B)
    ⟨rfl, BitVec.and_zero, BitVec.and_zero, BitVec.and_zero, rfl, rfl⟩

theorem movz (rd rs rt : Reg) : Statement (.movz rd rs rt) := fun _ =>
  packR_fits (m₁ := 0x3F) (m₂ := 0x00) (m₃ := 0x00) (m₄ := 0x00) (m₅ := 0x1F) (m₆ := 0x3F)
    (b₁ := 0x00) (b₂ := 0x00) (b₃ := 0x00) (b₄ := 0x00) (b₅ := 0x00) (b₆ := 0x0A)
    ⟨rfl, BitVec.and_zero, BitVec.and_zero, BitVec.and_zero, rfl, rfl⟩

theorem clz (rd rs : Reg) : Statement (.clz rd rs) := fun _ =>
  packR_fits (m₁ := 0x3F) (m₂ := 0x00) (m₃ := 0x00) (m₄ := 0x00) (m₅ := 0x1F) (m₆ := 0x3F)
    (b₁ := 0x1C) (b₂ := 0x00) (b₃ := 0x00) (b₄ := 0x00) (b₅ := 0x00) (b₆ := 0x20)
    ⟨rfl, BitVec.and_zero, BitVec.and_zero, BitVec.and_zero, rfl, rfl⟩

theorem clo (rd rs : Reg) : Statement (.clo rd rs) := fun _ =>
  packR_fits (m₁ := 0x3F) (m₂ := 0x00) (m₃ := 0x00) (m₄ := 0x00) (m₅ := 0x1F) (m₆ := 0x3F)
    (b₁ := 0x1C) (b₂ := 0x00) (b₃ := 0x00) (b₄ := 0x00) (b₅ := 0x00) (b₆ := 0x21)
    ⟨rfl, BitVec.and_zero, BitVec.and_zero, BitVec.and_zero, rfl, rfl⟩

theorem syscall : Statement .syscall := fun _ =>
  packR_fits (m₁ := 0x3F) (m₂ := 0x00) (m₃ := 0x00) (m₄ := 0x00) (m₅ := 0x00) (m₆ := 0x3F)
    (b₁ := 0x00) (b₂ := 0x00) (b₃ := 0x00) (b₄ := 0x00) (b₅ := 0x00) (b₆ := 0x0C)
    ⟨rfl, rfl, rfl, rfl, rfl, rfl⟩

end EncodesToRow

end Sys2Proof.Laws
end

