-- ==== Sys2Proof/Laws/Text.lean ====
section
/-! SUPPORT. What reading a string and parsing a numeral answer (spec/20_memory.md R55, 47_syscall.md R276 to R278): each
said once, in the terms of Safety.lean, so that no proof about a service unfolds them. -/

namespace Sys2Proof.Machine

theorem allowedByte_iff (b : Byte) : allowedByte b = true ↔ Allowed b := by simp [allowedByte, Allowed, or_assoc]

/-! ### Strings -/

theorem add_one_add_ofNat (a : Word) (k : Nat) : a + 1 + BitVec.ofNat 32 k = a + BitVec.ofNat 32 (k + 1) := by
  apply BitVec.eq_of_toNat_eq; simp; omega

/-- The first byte of a string, and the string after it. -/
theorem HoldsBytes.uncons {s : State} {a : Word} {b : Byte} {t : List Byte} (h : HoldsBytes s a (b :: t)) :
    (s.readAdmitted a.toNat 1 = true ∧ s.byteAt a.toNat = b ∧ b ≠ 0) ∧ HoldsBytes s (a + 1) t := by
  obtain ⟨hl, h⟩ := h
  refine ⟨by have := h 0 (by simp); rwa [BitVec.add_zero] at this, by simp at hl; omega, fun k hk => ?_⟩
  rw [add_one_add_ofNat]
  exact h (k + 1) (by simp; omega)

theorem HoldsBytes.left {s : State} {a : Word} {t u : List Byte} (h : HoldsBytes s a (t ++ u)) : HoldsBytes s a t := by
  obtain ⟨hl, h⟩ := h
  refine ⟨by simp at hl; omega, fun k hk => ?_⟩
  have := h k (by simp; omega)
  rwa [List.getElem_append_left hk] at this

/-- Bytes that are let through stand before what the rest of the read comes to. -/
theorem readString_prefix {s : State} {ok : Byte → Bool} (t : List Byte) : ∀ {a : Word} {n : Nat},
    HoldsBytes s a t → (∀ b ∈ t, ok b = true) → t.length ≤ n →
    s.readString ok n a = t.foldr StringRead.cons (s.readString ok (n - t.length) (a + BitVec.ofNat 32 t.length)) := by
  induction t with
  | nil => intro a n _ _ _; simp
  | cons b t ih =>
    intro a n h hok hn
    obtain ⟨⟨h1, h2, h3⟩, h4⟩ := h.uncons
    cases n with
    | zero => simp at hn
    | succ n =>
      have h5 : b.toNat ≠ 0 := fun e => h3 (BitVec.eq_of_toNat_eq e)
      rw [State.readString, memRead_one, if_pos h1]
      simp only [h2, h5, if_false, BitVec.ofNat_toNat, BitVec.setWidth_eq, hok b (by simp), if_true]
      rw [ih h4 (fun c hc => hok c (by simp [hc])) (by simpa using hn), add_one_add_ofNat, List.foldr_cons, List.length_cons,
        Nat.add_sub_add_right]

@[simp] theorem foldr_cons_done (t u : List Byte) : t.foldr StringRead.cons (.done u) = .done (t ++ u) := by
  induction t <;> simp_all [StringRead.cons]

@[simp] theorem foldr_cons_raised (t : List Byte) (r : Raise) : t.foldr StringRead.cons (.raised r) = .raised r := by
  induction t <;> simp_all [StringRead.cons]

/-- The read of one more byte after a prefix. -/
theorem stringAt_prefix {s : State} {ok : Byte → Bool} {a : Word} {t : List Byte} (h : HoldsBytes s a t)
    (hok : ∀ b ∈ t, ok b = true) :
    ∃ n, s.stringAt ok a = t.foldr StringRead.cons (s.readString ok (n + 1) (a + BitVec.ofNat 32 t.length)) := by
  have hl := h.1
  refine ⟨stringLimit - t.length - 1, ?_⟩
  rw [State.stringAt, readString_prefix t h hok (by unfold stringLimit; omega)]
  congr 2
  unfold stringLimit
  omega

/-- A string whose bytes are let through is read whole. -/
theorem stringAt_done {s : State} {ok : Byte → Bool} {a : Word} {t : List Byte} (h : HoldsString s a t)
    (hok : ∀ b ∈ t, ok b = true) : s.stringAt ok a = .done t := by
  obtain ⟨hb, h1, h2⟩ := h
  obtain ⟨n, hn⟩ := stringAt_prefix hb hok
  rw [hn, State.readString, memRead_one, if_pos h1, h2]
  simp

/-- The first byte that is not let through raises. -/
theorem stringAt_invalid {s : State} {ok : Byte → Bool} {a : Word} {t : List Byte} {b : Byte} (h : HoldsBytes s a (t ++ [b]))
    (hok : ∀ b ∈ t, ok b = true) (hb : ok b = false) : s.stringAt ok a = .raised ⟨.invalidCharacter, none⟩ := by
  obtain ⟨h1, h2, h3⟩ := h.2 t.length (by simp)
  rw [List.getElem_concat_length rfl] at h2 h3
  have h5 : b.toNat ≠ 0 := fun e => h3 (BitVec.eq_of_toNat_eq e)
  obtain ⟨n, hn⟩ := stringAt_prefix h.left hok
  rw [hn, State.readString, memRead_one, if_pos h1, h2]
  simp [h5, hb]

/-- A string that runs out of readable memory. -/
theorem stringAt_out {s : State} {ok : Byte → Bool} {a : Word} {t : List Byte} (h : HoldsBytes s a t)
    (hok : ∀ b ∈ t, ok b = true) (hr : s.readAdmitted (a + BitVec.ofNat 32 t.length).toNat 1 = false) :
    s.stringAt ok a = .raised ⟨.memoryOutOfBounds, some (a + BitVec.ofNat 32 t.length)⟩ := by
  obtain ⟨n, hn⟩ := stringAt_prefix h hok
  rw [hn, State.readString, memRead_one, if_neg (by rw [hr]; simp)]
  exact foldr_cons_raised _ _

/-! ### Numerals -/

theorem digitsValue_eq (ds : List Byte) (h : ∀ b ∈ ds, 0x30 ≤ b.toNat ∧ b.toNat ≤ 0x39) : ∀ acc : Nat,
    ((digitsValue acc ds : Nat) : Int) = ds.foldl (fun acc b => 10 * acc + ((b.toNat : Int) - 0x30)) acc := by
  induction ds with
  | nil => intro acc; rfl
  | cons b ds ih =>
    intro acc
    obtain ⟨hb, _⟩ := h b (by simp)
    have e : ((10 * acc + (b.toNat - 0x30) : Nat) : Int) = 10 * (acc : Int) + ((b.toNat : Int) - 0x30) := by
      rw [Nat.cast_add, Nat.cast_sub hb, Nat.cast_mul]; rfl
    have := ih (fun c hc => h c (by simp [hc])) (10 * acc + (b.toNat - 0x30))
    rw [e] at this
    exact this

theorem parseDigits_eq_some {ds : List Byte} {n : Nat} :
    parseDigits ds = some n ↔ ds ≠ [] ∧ (∀ b ∈ ds, 0x30 ≤ b.toNat ∧ b.toNat ≤ 0x39) ∧ n = digitsValue 0 ds := by
  have all : ds.all isDigit = true ↔ ∀ b ∈ ds, 0x30 ≤ b.toNat ∧ b.toNat ≤ 0x39 := by simp [isDigit, List.all_eq_true]
  unfold parseDigits
  split
  · rename_i h
    rw [Option.some_inj, eq_comm]
    exact ⟨fun e => ⟨h.1, all.mp h.2, e⟩, fun e => e.2.2⟩
  · rename_i h; simp only [reduceCtorEq, false_iff]; exact fun h' => h ⟨h'.1, all.mpr h'.2.1⟩

/-- The parser reads exactly the numerals of the spec. -/
theorem parseNumeral_eq_some {t : List Byte} {z : Int} : parseNumeral t = some z ↔ Denotes t z := by
  constructor
  · intro h
    cases t with
    | nil => simp [parseNumeral] at h
    | cons b t =>
      rw [parseNumeral] at h
      split at h <;> obtain ⟨n, hn, rfl⟩ := Option.map_eq_some_iff.mp h <;>
        obtain ⟨h1, h2, rfl⟩ := parseDigits_eq_some.mp hn
      · rename_i hb; exact ⟨true, t, h1, h2, by simp [hb], by rw [digitsValue_eq t h2]; simp⟩
      · exact ⟨false, b :: t, h1, h2, by simp, by rw [digitsValue_eq _ h2]; simp⟩
  · rintro ⟨neg, ds, h1, h2, rfl, rfl⟩
    have hv := digitsValue_eq ds h2 0
    have hp := parseDigits_eq_some.mpr ⟨h1, h2, rfl⟩
    cases neg
    · cases ds with
      | nil => exact absurd rfl h1
      | cons b t =>
        have hb : b ≠ 0x2D := by rintro rfl; have := (h2 0x2D (by simp)).1; simp at this
        simp only [Bool.false_eq_true, if_false, List.nil_append, parseNumeral, if_neg hb, hp, Option.map_some]
        rw [hv, Int.one_mul]; rfl
    · simpa [parseNumeral, hp] using hv

theorem parseNumeral_eq_none {t : List Byte} : parseNumeral t = none ↔ ¬ ∃ z, Denotes t z := by
  simp only [Option.eq_none_iff_forall_ne_some, ← parseNumeral_eq_some, ne_eq, not_exists]

/-- A numeral in the signed Word range is stored as its Word. -/
theorem putNumeral_in {s : State} {v : Int} (h : inWord v) : s.putNumeral v = .next (s.setX 2 (W v)) := if_pos h

/-- A numeral outside it has no next state (93_implementation_defined.md U9). -/
theorem putNumeral_out {s : State} {v : Int} (h : ¬ inWord v) : s.putNumeral v = .fault .numeralOutOfRange := if_neg h

end Sys2Proof.Machine
end

