-- ==== Sys2Proof/Tests/Slice0.lean ====
section
/-! SUPPORT. Tests. Every expected value comes from spec/ (the vectors V<n> of 95_test_vectors.md, or the encodings of
opcode_table.json with the fields written in by hand), none from the model. Then one witness for each statement that has
hypotheses, clause by clause. -/

namespace Sys2Proof.Tests

open Sys2Proof Sys2Proof.Machine

/-! ### Well-formedness: one ill-formed term for each check (30_encoding.md R81, 00_scope.md R4) -/

theorem test_illformed_immediates :
    (Instr.addi 8 8 32768).wellFormed = false ∧ (Instr.addiu 8 8 (-32769)).wellFormed = false
      ∧ (Instr.slti 8 8 40000).wellFormed = false ∧ (Instr.sltiu 8 8 (-40000)).wellFormed = false
      ∧ (Instr.addi 8 8 (-32768)).wellFormed = true ∧ (Instr.addiu 8 8 32767).wellFormed = true := by decide

theorem test_illformed_offsets :
    ([.lb 8 32768 9, .lbu 8 32768 9, .lh 8 32768 9, .lhu 8 32768 9, .lw 8 32768 9, .sb 8 32768 9, .sh 8 32768 9,
      .sw 8 32768 9, .lwl 8 32768 9, .lwr 8 32768 9, .swl 8 32768 9, .swr 8 32768 9, .lwc1 8 (-32769) 9,
      .swc1 8 (-32769) 9, .ldc1 8 (-32769) 9, .sdc1 8 (-32769) 9] : List Instr).all (fun i => !i.wellFormed) = true := by
  decide

theorem test_illformed_double_registers :
    ([.addD 1 2 4, .addD 0 3 4, .addD 0 2 5, .subD 1 2 4, .mulD 0 3 4, .divD 0 2 5, .sqrtD 1 2, .sqrtD 0 3, .roundWD 0 3,
      .truncWD 0 3, .ceilWD 0 3, .floorWD 0 3, .cvtSD 0 3, .cvtDS 1 2, .cvtDW 1 2, .cvtWD 0 3, .ldc1 3 0 8, .sdc1 3 0 8,
      .cEqD 0 3 4, .cLtD 0 2 5, .cLeD 0 3 4] : List Instr).all (fun i => !i.wellFormed) = true := by decide

/-- What is checked at run time is well formed (R81). -/
theorem test_wellformed_run_time_checks :
    ([.andi 8 8 (-1), .ori 8 8 65536, .xori 8 8 70000, .lui 8 65536, .sll 8 8 32, .srl 8 8 (-1), .sra 8 8 99,
      .roundWD 1 2, .cvtSD 1 2, .cvtDW 0 1, .cvtDS 0 1] : List Instr).all Instr.wellFormed = true := by decide

/-- The example configuration with one slot of text is admitted; each bound broken by itself is refused. -/
theorem test_configuration_checks :
    Cfg.example.wellFormed 1 = true
      ∧ ([ { Cfg.example with textBase := 0x00400002 }, { Cfg.example with dataMin := 0x10010001 }
         , { Cfg.example with dataMax := 0x1003FFFF }, { Cfg.example with heapBase := 0x10040002 }
         , { Cfg.example with initialSp := 0x7FFFEFFD }, { Cfg.example with stackTop := 0x80000001 }
         , { Cfg.example with mmioBase := 0xFFFF0001 }, { Cfg.example with initialPc := 0x00400002 }
         , { Cfg.example with dataMin := 0x10040004 }, { Cfg.example with heapBase := 0x1003FFFC }
         , { Cfg.example with initialSp := 0x1003FFF0 }, { Cfg.example with stackTop := 0x7FFFEFF8 } ] : List Cfg).all
          (fun c => !c.wellFormed 1) = true
      ∧ ([ { Cfg.example with mmioBase := 0x7FFFFFFC }, { Cfg.example with mmioBase := 0x100000004 }
         , { Cfg.example with textBase := 0xFFFF0000, initialPc := 0xFFFF0000 }
         , { Cfg.example with textBase := 0x10020000, initialPc := 0x10020000 }
         , { Cfg.example with textBase := 0x20000000, initialPc := 0x20000000 }
         , { Cfg.example with initialPc := 0x003FFFFC }, { Cfg.example with initialPc := 0x00400004 } ] : List Cfg).all
          (fun c => !c.wellFormed 1) = true
      ∧ Cfg.example.wellFormed 0 = false := by decide

/-- A launch of the example configuration. -/
def launch (text : List Slot) (images : List (Nat × List Byte)) : Launch :=
  { cfg := Cfg.example, text := text, labels := [("main", 0x00400000)], images := images.map fun p => ⟨p.1, 1, p.2⟩
    input := [], gen := 0, files := [] }

def Launch.refusal (l : Launch) : Option Refusal :=
  match l.boot with
  | .ok _ => none
  | .error r => some r

/-- No text, an image outside the map, one across a bound, an odd double register. -/
theorem test_launches_refused :
    Launch.refusal (launch [] []) = some .illFormedLaunch
      ∧ Launch.refusal (launch [.word 0] [(0, [1])]) = some .illFormedLaunch
      ∧ Launch.refusal (launch [.word 0] [(0x0040FFFF, [1])]) = some .illFormedLaunch
      ∧ Launch.refusal (launch [.word 0] [(0x7FFFFFFF, [1, 2])]) = some .illFormedLaunch
      ∧ Launch.refusal (launch [.record (.addD 1 2 4)] []) = some .illFormedRecord := by decide

/-- The bytes laid over a level-2 slot must in the end be those of its word, in the byte order of the configuration; over
a record any bytes may stand, and they are what a load reads (00_scope.md R4, 20_memory.md R45). -/
theorem test_text_image :
    Launch.refusal (launch [.word 0x2404000A] [(0x00400000, [0x0A, 0x00, 0x04, 0x24])]) = none
      ∧ Launch.refusal (launch [.word 0x2404000A] [(0x00400000, [0x24, 0x04, 0x00, 0x0A])]) = some .illFormedLaunch
      ∧ Launch.refusal (launch [.word 0x2404000A] [(0x00400003, [0x25])]) = some .illFormedLaunch
      ∧ Launch.refusal (launch [.word 0x2404000A] [(0x00400003, [0x25]), (0x00400003, [0x24])]) = none
      ∧ (launch [.record (.addiu 4 0 10)] [(0x00400001, [7])]).boot.toOption.map (·.byteAt 0x00400001) = some 7 := by
  decide

/-- `addWord` and `addHalf` store in the byte order of the configuration, at aligned addresses only (20_memory.md R44, R46,
R52). -/
theorem test_loader_values :
    ((launch [.word 0] []).addWord 0x11223344 0x10010004).memory
        = [(0x10010004, 0x44), (0x10010005, 0x33), (0x10010006, 0x22), (0x10010007, 0x11)]
      ∧ ((({ launch [.word 0] [] with cfg := { Cfg.example with endian := .big } }).addHalf 0xABCD 0x10010002).addByte 7
        0x10010000).memory = [(0x10010000, 0x07), (0x10010002, 0xAB), (0x10010003, 0xCD)]
      ∧ Launch.refusal ((launch [.word 0] []).addWord 1 0x10010004) = none
      ∧ Launch.refusal ((launch [.word 0] []).addWord 1 0x10010002) = some .illFormedLaunch
      ∧ Launch.refusal ((launch [.word 0] []).addDouble 1 0x10010004) = some .illFormedLaunch := by decide

/-- The host reads and writes a flag by its name, and a write of `$zero` is discarded (10_state.md R24, R28). -/
theorem test_host_registers :
    (State.reset.setRegister (.cc 3) true).getRegister (.cc 3) = true
      ∧ (State.reset.setRegister (.cc 3) true).getRegister (.cc 2) = false
      ∧ ((State.reset.setRegister (.x 0) 5).getRegister (.x 0) : Word) = 0
      ∧ ((State.reset.setRegister .hi 5).getRegister .hi : Word) = 5 := by decide

/-- `addAsciiz` terminates, `addAscii` does not; labels are looked up by name (20_memory.md R54, R56). -/
theorem test_loader :
    (((launch [.word 0] []).addAsciiz [0x48, 0x69] 0x10010000).addAscii [0x21] 0x10010002).memory
        = [(0x10010000, 0x48), (0x10010001, 0x69), (0x10010002, 0x21)]
      ∧ (launch [.word 0] []).getLabel "main" = some 0x00400000 ∧ (launch [.word 0] []).getLabel "other" = none := by
  decide

/-! ### Decoding: a word of each instruction, its fields written into the encoding of opcode_table.json at address
0x00400010 (rs 17, rt 26, rd 9, base 29, fs 22, ft 12, fd 30, cc 5, sa 19, a 16-bit field 0x8F35, an index 0x2C100A5) -/

def readsAll (l : List (Word × Instr)) : Bool := l.all fun p => decide (decode 0x00400010 p.1 = .ok p.2)

theorem test_decode_arithmetic : readsAll
    [ (0b00000010001110100100100000100000, .add 9 17 26)
    , (0b00000010001110100100100000100001, .addu 9 17 26)
    , (0b00000010001110100100100000100010, .sub 9 17 26)
    , (0b00000010001110100100100000100011, .subu 9 17 26)
    , (0b00100010001110101000111100110101, .addi 26 17 (-28875))
    , (0b00100110001110101000111100110101, .addiu 26 17 (-28875))
    , (0b00000010001110100100100000101010, .slt 9 17 26)
    , (0b00000010001110100100100000101011, .sltu 9 17 26)
    , (0b00101010001110101000111100110101, .slti 26 17 (-28875))
    , (0b00101110001110101000111100110101, .sltiu 26 17 (-28875))
    , (0b00111100000110101000111100110101, .lui 26 0x8F35) ] = true := by decide

theorem test_decode_bitwise_and_shifts : readsAll
    [ (0b00000010001110100100100000100100, .and 9 17 26)
    , (0b00000010001110100100100000100101, .or 9 17 26)
    , (0b00000010001110100100100000100111, .nor 9 17 26)
    , (0b00000010001110100100100000100110, .xor 9 17 26)
    , (0b00110010001110101000111100110101, .andi 26 17 0x8F35)
    , (0b00110110001110101000111100110101, .ori 26 17 0x8F35)
    , (0b00111010001110101000111100110101, .xori 26 17 0x8F35)
    , (0b00000000000110100100110011000000, .sll 9 26 19)
    , (0b00000000000110100100110011000010, .srl 9 26 19)
    , (0b00000000000110100100110011000011, .sra 9 26 19)
    , (0b00000010001110100100100000000100, .sllv 9 26 17)
    , (0b00000010001110100100100000000110, .srlv 9 26 17)
    , (0b00000010001110100100100000000111, .srav 9 26 17) ] = true := by decide

theorem test_decode_muldiv : readsAll
    [ (0b01110010001110100100100000000010, .mul 9 17 26)
    , (0b00000010001110100000000000011000, .mult 17 26)
    , (0b00000010001110100000000000011001, .multu 17 26)
    , (0b00000010001110100000000000011010, .div 17 26)
    , (0b00000010001110100000000000011011, .divu 17 26)
    , (0b01110010001110100000000000000000, .madd 17 26)
    , (0b01110010001110100000000000000001, .maddu 17 26)
    , (0b01110010001110100000000000000100, .msub 17 26)
    , (0b01110010001110100000000000000101, .msubu 17 26)
    , (0b00000000000000000100100000010000, .mfhi 9)
    , (0b00000000000000000100100000010010, .mflo 9) ] = true := by decide

theorem test_decode_float_arithmetic : readsAll
    [ (0b01000110000011001011011110000000, .addS 30 22 12)
    , (0b01000110000011001011011110000001, .subS 30 22 12)
    , (0b01000110000011001011011110000010, .mulS 30 22 12)
    , (0b01000110000011001011011110000011, .divS 30 22 12)
    , (0b01000110000000001011011110000100, .sqrtS 30 22)
    , (0b01000110001011001011011110000000, .addD 30 22 12)
    , (0b01000110001011001011011110000001, .subD 30 22 12)
    , (0b01000110001011001011011110000010, .mulD 30 22 12)
    , (0b01000110001011001011011110000011, .divD 30 22 12)
    , (0b01000110001000001011011110000100, .sqrtD 30 22) ] = true := by decide

theorem test_decode_float_conversions_and_moves : readsAll
    [ (0b01000110000000001011011110001100, .roundWS 30 22)
    , (0b01000110000000001011011110001101, .truncWS 30 22)
    , (0b01000110000000001011011110001110, .ceilWS 30 22)
    , (0b01000110000000001011011110001111, .floorWS 30 22)
    , (0b01000110001000001011011110001100, .roundWD 30 22)
    , (0b01000110001000001011011110001101, .truncWD 30 22)
    , (0b01000110001000001011011110001110, .ceilWD 30 22)
    , (0b01000110001000001011011110001111, .floorWD 30 22)
    , (0b01000110001000001011011110100000, .cvtSD 30 22)
    , (0b01000110100000001011011110100000, .cvtSW 30 22)
    , (0b01000110000000001011011110100001, .cvtDS 30 22)
    , (0b01000110100000001011011110100001, .cvtDW 30 22)
    , (0b01000110000000001011011110100100, .cvtWS 30 22)
    , (0b01000110001000001011011110100100, .cvtWD 30 22)
    , (0b01000100000110101011000000000000, .mfc1 26 22)
    , (0b01000100100110101011000000000000, .mtc1 26 22) ] = true := by decide

theorem test_decode_loads_and_stores : readsAll
    [ (0b10000011101110101000111100110101, .lb 26 (-28875) 29)
    , (0b10010011101110101000111100110101, .lbu 26 (-28875) 29)
    , (0b10000111101110101000111100110101, .lh 26 (-28875) 29)
    , (0b10010111101110101000111100110101, .lhu 26 (-28875) 29)
    , (0b10001111101110101000111100110101, .lw 26 (-28875) 29)
    , (0b10100011101110101000111100110101, .sb 26 (-28875) 29)
    , (0b10100111101110101000111100110101, .sh 26 (-28875) 29)
    , (0b10101111101110101000111100110101, .sw 26 (-28875) 29)
    , (0b10001011101110101000111100110101, .lwl 26 (-28875) 29)
    , (0b10011011101110101000111100110101, .lwr 26 (-28875) 29)
    , (0b10101011101110101000111100110101, .swl 26 (-28875) 29)
    , (0b10111011101110101000111100110101, .swr 26 (-28875) 29)
    , (0b11000111101011001000111100110101, .lwc1 12 (-28875) 29)
    , (0b11100111101011001000111100110101, .swc1 12 (-28875) 29)
    , (0b11010111101011001000111100110101, .ldc1 12 (-28875) 29)
    , (0b11110111101011001000111100110101, .sdc1 12 (-28875) 29) ] = true := by decide

theorem test_decode_branches_and_jumps : readsAll
    [ (0b00010010001110101000111100110101, .beq 17 26 0x003E3CE8)
    , (0b00010110001110101000111100110101, .bne 17 26 0x003E3CE8)
    , (0b00011010001000001000111100110101, .blez 17 0x003E3CE8)
    , (0b00011110001000001000111100110101, .bgtz 17 0x003E3CE8)
    , (0b00000110001000001000111100110101, .bltz 17 0x003E3CE8)
    , (0b00000110001000011000111100110101, .bgez 17 0x003E3CE8)
    , (0b00001010110000010000000010100101, .j 0x0B040294)
    , (0b00001110110000010000000010100101, .jal 0x0B040294)
    , (0b00000010001000000000000000001000, .jr 17)
    , (0b00000010001000000100100000001001, .jalr 9 17) ] = true := by decide

theorem test_decode_compares_and_flags : readsAll
    [ (0b01000110000011001011010100110010, .cEqS 5 22 12)
    , (0b01000110000011001011010100111100, .cLtS 5 22 12)
    , (0b01000110000011001011010100111110, .cLeS 5 22 12)
    , (0b01000110001011001011010100110010, .cEqD 5 22 12)
    , (0b01000110001011001011010100111100, .cLtD 5 22 12)
    , (0b01000110001011001011010100111110, .cLeD 5 22 12)
    , (0b01000101000101001000111100110101, .bc1f 5 0x003E3CE8)
    , (0b01000101000101011000111100110101, .bc1t 5 0x003E3CE8)
    , (0b00000010001101000100100000000001, .movf 9 17 5)
    , (0b00000010001101010100100000000001, .movt 9 17 5) ] = true := by decide

theorem test_decode_bitcount_and_syscall : readsAll
    [ (0b00000010001110100100100000001011, .movn 9 17 26)
    , (0b00000010001110100100100000001010, .movz 9 17 26)
    , (0b01110010001101100100100000100000, .clz 9 17)
    , (0b01110010001101100100100000100001, .clo 9 17)
    , (0b00000011111111111111111111001100, .syscall) ] = true := by decide
/-- V265 to V282: reserved words. -/
theorem test_reserved_words :
    ([0x0109501A, 0x3C281001, 0x0000000D, 0x0000000F, 0x00000011, 0x00000013, 0x42000018, 0x04110003, 0x04100003,
      0x46000005, 0x46000006, 0x46000007, 0x46A00020, 0x03E00408, 0x7109001C, 0x00020001, 0x45020003, 0x46001030,
      0x44090801, 0xFFFFFFFF] : List Word).all (fun w => decide (decode 0x00400010 w = .error .noRow)) = true
      ∧ ([0x46201040, 0xD5030000, 0x46800061] : List Word).all
          (fun w => decide (decode 0x00400010 w = .error .illFormed)) = true := by decide

/-- The rows: 102, of 102 mnemonics, no two of which any word can fit. -/
theorem test_rows_exclude_each_other :
    opcodeTable.length = 102 ∧ (opcodeTable.map (·.mnemonic)).Nodup
      ∧ opcodeTable.Pairwise (fun r q => (r.bits ^^^ q.bits) &&& r.mask &&& q.mask ≠ 0) := by decide +kernel

/-- The encoder: V240, V242, V253, V263's canonical form, V283; what has no word (V23, V36, V40; a branch out of reach). -/
theorem test_encode :
    encode 0x00400010 (.beq 8 9 0x00400020) = some 0x11090003 ∧ encode 0x00400010 (.bne 8 9 0x00400008) = some 0x1509FFFD
      ∧ encode 0x00400010 (.jal 0x00400100) = some 0x0C100040 ∧ encode 0x00400010 .syscall = some 0x0000000C
      ∧ encode 0x00400010 (.addiu 8 0 (-7)) = some 0x2408FFF9 ∧ encode 0x00400010 (.lui 8 65536) = none
      ∧ encode 0x00400010 (.andi 9 8 (-1)) = none ∧ encode 0x00400010 (.sll 9 8 32) = none
      ∧ encode 0x00400010 (.beq 8 9 0x00420014) = none ∧ encode 0x00400010 (.j 0x10000000) = none := by decide

/-! ### States -/

/-- Running at address 0x00400010 in the example configuration: `pc` is advanced. -/
def base : State := { State.reset with run := .running, pc := 0x00400014, icount := 5 }

def State.withX (s : State) (l : List (Reg × Word)) : State := l.foldl (fun s p => s.setX p.1 p.2) s

def State.withF (s : State) (l : List (FReg × Word)) : State := l.foldl (fun s p => s.setF p.1 p.2) s

def State.withFD (s : State) (l : List (FReg × DWord)) : State := l.foldl (fun s p => s.setFD p.1 p.2) s

def State.withMem (s : State) (a : Nat) (bs : List Byte) : State := s.putBytes a bs

/-- With `$8` and `$9`. -/
def regs (a b : Word) : State := State.withX base [(8, a), (9, b)]

/-- `exec` answers a next state that `p` accepts. -/
def gives (i : Instr) (s : State) (p : State → Bool) : Bool :=
  match exec i s with
  | .next t => p t
  | _ => false

/-- There is no next state, for this reason. -/
def stops (r : Result) (f : Fault) : Bool :=
  match r with
  | .fault g => g == f
  | _ => false

def refuses (r : Result) (e : Refusal) : Bool :=
  match r with
  | .refused g => g == e
  | _ => false

/-- An integer register after the instruction. -/
def putsX (i : Instr) (s : State) (r : Reg) (v : Word) : Bool :=
  gives i s fun t => t.getX r == v && t.run == .running

def putsF (i : Instr) (s : State) (r : FReg) (v : Word) : Bool :=
  gives i s fun t => t.getF r == v && t.run == .running

def putsFD (i : Instr) (s : State) (r : FReg) (v : DWord) : Bool :=
  gives i s fun t => t.getFD r == v && t.run == .running

def putsHiLo (i : Instr) (s : State) (h l : Word) : Bool :=
  gives i s fun t => t.hi == h && t.lo == l && t.run == .running

def putsPc (i : Instr) (s : State) (a : Word) : Bool := gives i s fun t => t.pc == a && t.run == .running

/-- The instruction faults: the record, and no register but `run` and `fault` written. -/
def faults (i : Instr) (s : State) (k : FaultKind) (bad : Option Word) : Bool :=
  gives i s fun t => decide (t = { s with run := .faulted, fault := some ⟨k, s.pc - 4, bad, none⟩ })


/-! ### Integer arithmetic and compare -/

/-- V1 to V6. -/
theorem test_add :
    faults (.add 10 8 9) (regs 0x7FFFFFFF 1) .arithmeticOverflow none
      ∧ faults (.add 0 8 9) (regs 0x7FFFFFFF 1) .arithmeticOverflow none
      ∧ putsX (.add 10 8 9) (regs 0x7FFFFFFF 0x80000000) 10 0xFFFFFFFF
      ∧ putsX (.add 8 8 8) (regs 0x3FFFFFFF 0) 8 0x7FFFFFFE := by decide

/-- V7, V11, V15. -/
theorem test_addu_subu_addiu :
    putsX (.addu 10 8 9) (regs 0x7FFFFFFF 1) 10 0x80000000 ∧ putsX (.subu 10 8 9) (regs 0x80000000 1) 10 0x7FFFFFFF
      ∧ putsX (.addiu 9 8 (-32768)) (regs 0x80007FFF 0) 9 0x7FFFFFFF ∧ putsX (.addiu 0 0 5) base 0 0 := by decide

/-- V8 to V10. -/
theorem test_sub :
    faults (.sub 10 8 9) (regs 0x80000000 1) .arithmeticOverflow none
      ∧ faults (.sub 10 8 9) (regs 0 0x80000000) .arithmeticOverflow none
      ∧ putsX (.sub 10 8 9) (regs 0x80000000 0x80000000) 10 0 := by decide

/-- V12 to V14. -/
theorem test_addi :
    faults (.addi 9 8 32767) (regs 0x7FFF8001 0) .arithmeticOverflow none
      ∧ putsX (.addi 9 8 32767) (regs 0x7FFF8000 0) 9 0x7FFFFFFF
      ∧ faults (.addi 9 8 (-32768)) (regs 0x80007FFF 0) .arithmeticOverflow none := by decide

/-- V16 to V21. -/
theorem test_set_on_less :
    putsX (.slt 10 8 9) (regs 0x80000000 0x7FFFFFFF) 10 1 ∧ putsX (.sltu 10 8 9) (regs 0x80000000 0x7FFFFFFF) 10 0
      ∧ putsX (.slti 9 8 (-1)) (regs 0xFFFFFFFF 7) 9 0 ∧ putsX (.sltiu 9 8 (-1)) (regs 0xFFFFFFFE 7) 9 1
      ∧ putsX (.sltiu 9 8 (-1)) (regs 0xFFFFFFFF 7) 9 0 ∧ putsX (.sltiu 9 8 1) (regs 0 7) 9 1 := by decide

/-- V22, V23. -/
theorem test_lui :
    putsX (.lui 8 0xFFFF) base 8 0xFFFF0000 ∧ faults (.lui 8 65536) (regs 7 0) .invalidImmediate none := by decide

/-! ### Bitwise and shifts -/

/-- V30 to V34. -/
theorem test_bitwise :
    putsX (.and 10 8 9) (regs 0xFF00FF00 0x0FF00FF0) 10 0x0F000F00
      ∧ putsX (.or 10 8 9) (regs 0xFF00FF00 0x0FF00FF0) 10 0xFFF0FFF0
      ∧ putsX (.xor 10 8 9) (regs 0xFF00FF00 0x0FF00FF0) 10 0xF0F0F0F0
      ∧ putsX (.nor 10 8 9) (regs 0xFF00FF00 0x0FF00FF0) 10 0x000F000F ∧ putsX (.nor 10 0 0) base 10 0xFFFFFFFF := by
  decide

/-- V35 to V38. -/
theorem test_logical_immediates :
    putsX (.andi 9 8 0xFFFF) (regs 0xFFFFFFFF 0) 9 0x0000FFFF
      ∧ faults (.andi 9 8 (-1)) (regs 0xFFFFFFFF 3) .invalidImmediate none
      ∧ faults (.ori 9 8 65536) (regs 0 3) .invalidImmediate none
      ∧ putsX (.ori 9 8 0x8001) (regs 0x00010000 3) 9 0x00018001
      ∧ putsX (.xori 9 8 0xFFFF) (regs 0xFFFFFFFF 0) 9 0xFFFF0000 := by decide

/-- V39 to V45. -/
theorem test_literal_shifts :
    putsX (.sll 9 8 31) (regs 3 0) 9 0x80000000 ∧ faults (.sll 9 8 32) (regs 3 9) .invalidImmediate none
      ∧ faults (.sll 9 8 (-1)) (regs 3 9) .invalidImmediate none ∧ putsX (.srl 9 8 31) (regs 0x80000000 0) 9 1
      ∧ putsX (.sra 9 8 31) (regs 0x80000000 0) 9 0xFFFFFFFF ∧ putsX (.sra 9 8 0) (regs 0x80000000 0) 9 0x80000000
      ∧ putsX (.sra 9 8 4) (regs 0xF0000000 0) 9 0xFF000000 ∧ putsX (.srl 9 8 4) (regs 0xF0000000 0) 9 0x0F000000 := by
  decide

/-- V46 to V51. -/
theorem test_variable_shifts :
    putsX (.sllv 10 8 9) (regs 0x12345678 33) 10 0x2468ACF0 ∧ putsX (.sllv 10 8 9) (regs 0x12345678 32) 10 0x12345678
      ∧ putsX (.sllv 10 8 9) (regs 1 0xFFFFFFFF) 10 0x80000000
      ∧ putsX (.srlv 10 8 9) (regs 0x80000000 0xFFFFFFE4) 10 0x08000000
      ∧ putsX (.srav 10 8 9) (regs 0x80000000 0xFFFFFFE4) 10 0xF8000000 := by decide

/-! ### Multiply, divide, bit counting -/

/-- With `hi` and `lo`. -/
def accum (h l a b : Word) : State := { regs a b with hi := h, lo := l }

/-- V55, V56, V79. -/
theorem test_mul_and_moves :
    putsX (.mul 10 8 9) (accum 0x11 0x22 0xFFFFFFFF 0xFFFFFFFF) 10 1
      ∧ putsHiLo (.mul 10 8 9) (accum 0x11 0x22 0x80000000 0x80000000) 0x11 0x22
      ∧ putsX (.mfhi 10) (accum 0xDEADBEEF 0x00C0FFEE 0 0) 10 0xDEADBEEF
      ∧ putsX (.mflo 11) (accum 0xDEADBEEF 0x00C0FFEE 0 0) 11 0x00C0FFEE := by decide

/-- V57 to V60. -/
theorem test_mult_multu :
    putsHiLo (.mult 8 9) (regs 0x80000000 0x80000000) 0x40000000 0
      ∧ putsHiLo (.mult 8 9) (regs 0xFFFFFFFF 1) 0xFFFFFFFF 0xFFFFFFFF
      ∧ putsHiLo (.mult 8 9) (regs 0x80000000 0x7FFFFFFF) 0xC0000000 0x80000000
      ∧ putsHiLo (.multu 8 9) (regs 0xFFFFFFFF 0xFFFFFFFF) 0xFFFFFFFE 1 := by decide

/-- V61 to V68. -/
theorem test_div :
    putsHiLo (.div 8 9) (regs 7 2) 1 3 ∧ putsHiLo (.div 8 9) (regs 0xFFFFFFF9 2) 0xFFFFFFFF 0xFFFFFFFD
      ∧ putsHiLo (.div 8 9) (regs 7 0xFFFFFFFE) 1 0xFFFFFFFD ∧ putsHiLo (.div 8 9) (regs 0xFFFFFFF9 0xFFFFFFFE) 0xFFFFFFFF 3
      ∧ putsHiLo (.div 8 9) (regs 0x80000000 0xFFFFFFFF) 0 0x80000000
      ∧ faults (.div 8 9) (accum 0x11 0x22 5 0) .divisionByZero none ∧ putsHiLo (.div 8 9) (regs 1 0x80000000) 1 0 := by
  decide

/-- V69 to V71. -/
theorem test_divu :
    faults (.divu 8 9) (accum 0x11 0x22 5 0) .divisionByZero none
      ∧ putsHiLo (.divu 8 9) (regs 0x80000000 0xFFFFFFFF) 0x80000000 0
      ∧ putsHiLo (.divu 8 9) (regs 0xFFFFFFFF 0x10) 0xF 0x0FFFFFFF := by decide

/-- V72 to V78. -/
theorem test_multiply_accumulate :
    putsHiLo (.madd 8 9) (accum 0x7FFFFFFF 0xFFFFFFFF 1 1) 0x80000000 0
      ∧ putsHiLo (.madd 8 9) (accum 0 0 0xFFFFFFFF 1) 0xFFFFFFFF 0xFFFFFFFF
      ∧ putsHiLo (.maddu 8 9) (accum 0xFFFFFFFF 0xFFFFFFFF 1 1) 0 0
      ∧ putsHiLo (.maddu 8 9) (accum 0 0 0xFFFFFFFF 1) 0 0xFFFFFFFF
      ∧ putsHiLo (.msub 8 9) (accum 0 0 1 1) 0xFFFFFFFF 0xFFFFFFFF
      ∧ putsHiLo (.msub 8 9) (accum 0x80000000 0 1 1) 0x7FFFFFFF 0xFFFFFFFF
      ∧ putsHiLo (.msubu 8 9) (accum 0 0 0xFFFFFFFF 0xFFFFFFFF) 1 0xFFFFFFFF := by decide

/-- V80 to V88. -/
theorem test_bit_counts :
    putsX (.clz 9 8) (regs 0 0) 9 32 ∧ putsX (.clz 9 8) (regs 1 0) 9 31 ∧ putsX (.clz 9 8) (regs 0x80000000 7) 9 0
      ∧ putsX (.clz 9 8) (regs 0x00010000 0) 9 15 ∧ putsX (.clo 9 8) (regs 0xFFFFFFFF 0) 9 32
      ∧ putsX (.clo 9 8) (regs 0xFFFF0000 0) 9 16 ∧ putsX (.clo 9 8) (regs 0x7FFFFFFF 7) 9 0 := by decide

/-! ### Floating point -/

/-- `f[1]` and `f[2]`. -/
def flts (a b : Word) : State := State.withF base [(1, a), (2, b)]

/-- `fd[2]` and `fd[4]`. -/
def dbls (a b : DWord) : State := State.withFD base [(2, a), (4, b)]

def drawsNaN (i : Instr) (s : State) : Bool := gives i s fun t => t.run == .running && t.draws == s.draws + 1

/-- V90 to V95. -/
theorem test_add_s :
    putsF (.addS 0 1 2) (flts 0x3F800000 0x33800000) 0 0x3F800000 ∧ putsF (.addS 0 1 2) (flts 0x3F800001 0x33800000) 0 0x3F800002
      ∧ putsF (.addS 0 1 2) (flts 0x7F7FFFFF 0x7F7FFFFF) 0 0x7F800000 ∧ putsF (.addS 0 1 2) (flts 0x3F800000 0xBF800000) 0 0
      ∧ putsF (.addS 0 1 2) (flts 0x80000000 0x80000000) 0 0x80000000 := by decide +kernel

/-- 3.0 - 1.0; V97 to V99. -/
theorem test_sub_s_mul_s :
    putsF (.subS 0 1 2) (flts 0x40400000 0x3F800000) 0 0x40000000 ∧ putsF (.mulS 0 1 2) (flts 0x00800000 0x3F000000) 0 0x00400000
      ∧ putsF (.mulS 0 1 2) (flts 1 0x3F000000) 0 0 ∧ putsF (.mulS 0 1 2) (flts 0x80000000 0x40A00000) 0 0x80000000 := by decide +kernel

/-- V101 to V103. -/
theorem test_div_s :
    putsF (.divS 0 1 2) (flts 0x3F800000 0x40400000) 0 0x3EAAAAAB ∧ putsF (.divS 0 1 2) (flts 0x3F800000 0) 0 0x7F800000
      ∧ putsF (.divS 0 1 2) (flts 0x3F800000 0x80000000) 0 0xFF800000 := by decide +kernel

/-- V112, V115, V117. -/
theorem test_sqrt_s :
    putsF (.sqrtS 0 1) (flts 0x40000000 0) 0 0x3FB504F3 ∧ putsF (.sqrtS 0 1) (flts 0x80000000 0) 0 0x80000000
      ∧ putsF (.sqrtS 0 1) (flts 0x7F800000 0) 0 0x7F800000 := by decide +kernel

/-- V111: the value, and the halves in their registers. -/
theorem test_add_d :
    putsFD (.addD 0 2 4) (dbls 0x3FB999999999999A 0x3FC999999999999A) 0 0x3FD3333333333334
      ∧ putsF (.addD 0 2 4) (dbls 0x3FB999999999999A 0x3FC999999999999A) 1 0x3FD33333 := by decide +kernel

/-- 3 - 2; 3 * 2. -/
theorem test_sub_d_mul_d :
    putsFD (.subD 0 2 4) (dbls 0x4008000000000000 0x4000000000000000) 0 0x3FF0000000000000
      ∧ putsFD (.mulD 0 2 4) (dbls 0x4008000000000000 0x4000000000000000) 0 0x4018000000000000 := by decide +kernel

/-- V105 to V107, V109. -/
theorem test_div_d :
    putsFD (.divD 0 2 4) (dbls 0x3FF0000000000000 0) 0 0x7FF0000000000000
      ∧ putsFD (.divD 0 2 4) (dbls 0xBFF0000000000000 0) 0 0xFFF0000000000000
      ∧ putsFD (.divD 0 2 4) (dbls 0x3FF0000000000000 0x8000000000000000) 0 0x7FF0000000000000
      ∧ putsFD (.divD 0 2 4) (dbls 0x7FF0000000000000 0) 0 0x7FF0000000000000 := by decide +kernel

/-- V116. -/
theorem test_sqrt_d : putsFD (.sqrtD 0 2) (dbls 0x4000000000000000 0) 0 0x3FF6A09E667F3BCD := by decide +kernel

/-- V120 to V132: single to Word. -/
theorem test_single_to_word :
    putsF (.roundWS 0 1) (flts 0x3F000000 0) 0 0 ∧ putsF (.roundWS 0 1) (flts 0x3FC00000 0) 0 2
      ∧ putsF (.roundWS 0 1) (flts 0xC0200000 0) 0 0xFFFFFFFE ∧ putsF (.roundWS 0 1) (flts 0x7FC00000 0) 0 0x7FFFFFFF
      ∧ putsF (.roundWS 0 1) (flts 0xFF800000 0) 0 0x7FFFFFFF ∧ putsF (.truncWS 0 1) (flts 0xCF32D05E 0) 0 0x7FFFFFFF
      ∧ putsF (.truncWS 0 1) (flts 0xCF000000 0) 0 0x80000000 ∧ putsF (.truncWS 0 1) (flts 0x4EFFFFFF 0) 0 0x7FFFFF80
      ∧ putsF (.ceilWS 0 1) (flts 0xBF000000 5) 0 0 ∧ putsF (.floorWS 0 1) (flts 0xBF000000 0) 0 0xFFFFFFFF
      ∧ putsF (.cvtWS 0 1) (flts 0x40200000 0) 0 2 := by decide +kernel

/-- V133 to V137, V139: double to Word. -/
theorem test_double_to_word :
    putsF (.truncWD 0 2) (dbls 0x41DFFFFFFFF9999A 0) 0 0x7FFFFFFF ∧ putsF (.truncWD 0 2) (dbls 0xC1E00000001CCCCD 0) 0 0x80000000
      ∧ putsF (.floorWD 0 2) (dbls 0xC1E0000000100000 0) 0 0x7FFFFFFF ∧ putsF (.ceilWD 0 2) (dbls 0xC1E0000000100000 0) 0 0x80000000
      ∧ putsF (.roundWD 0 2) (dbls 0x41DFFFFFFFE00000 0) 0 0x7FFFFFFF ∧ putsF (.roundWD 0 2) (dbls 0x41DFFFFFFFA00000 0) 0 0x7FFFFFFE
      ∧ putsF (.cvtWD 0 2) (dbls 0x400C000000000000 0) 0 4 := by decide +kernel

/-- V140 to V145: Word to float. -/
theorem test_word_to_float :
    putsF (.cvtSW 0 1) (flts 0x7FFFFFFF 0) 0 0x4F000000 ∧ putsF (.cvtSW 0 1) (flts 0x01000003 0) 0 0x4B800002
      ∧ putsF (.cvtSW 0 1) (flts 0xFFFFFFFF 0) 0 0xBF800000 ∧ putsFD (.cvtDW 0 1) (flts 0x80000000 0) 0 0xC1E0000000000000
      ∧ putsFD (.cvtDW 0 1) (flts 0x7FFFFFFF 0) 0 0x41DFFFFFFFC00000 := by decide +kernel

/-- V146 to V152: between the formats. -/
theorem test_cvt_s_d_cvt_d_s :
    putsF (.cvtSD 0 2) (dbls 0x3FB999999999999A 0) 0 0x3DCCCCCD ∧ putsF (.cvtSD 0 2) (dbls 0x483D6329F1C35CA5 0) 0 0x7F800000
      ∧ putsF (.cvtSD 0 2) (dbls 0xB66244CE242C5561 0) 0 0x80000000 ∧ putsF (.cvtSD 0 2) (dbls 0x3696D601AD376AB9 0) 0 1
      ∧ putsF (.cvtSD 0 2) (dbls 0x47EFFFFFF0000000 0) 0 0x7F800000
      ∧ putsFD (.cvtDS 0 2) (State.withF base [(2, 0x3DCCCCCD)]) 0 0x3FB99999A0000000 := by decide +kernel

/-- V153, V154. -/
theorem test_mtc1_mfc1 :
    putsF (.mtc1 8 1) (regs 0x7FA00001 0) 1 0x7FA00001 ∧ putsX (.mfc1 9 1) (flts 0x7FA00001 0) 9 0x7FA00001
      ∧ putsX (.mfc1 0 1) (flts 0x12345678 0) 0 0 := by decide +kernel

/-- V93, V96, V100, V104, V108, V110, V113, V114: each takes one free value (that it is a NaN is a statement). -/
theorem test_nan_results :
    drawsNaN (.addS 0 1 2) (flts 0x7F800000 0xFF800000) ∧ drawsNaN (.subS 0 1 2) (flts 0x7F800000 0x7F800000)
      ∧ drawsNaN (.mulS 0 1 2) (flts 0 0x7F800000) ∧ drawsNaN (.divS 0 1 2) (flts 0 0) ∧ drawsNaN (.divD 0 2 4) (dbls 0 0)
      ∧ drawsNaN (.divD 0 2 4) (dbls 0x7FF8000000000000 0) ∧ drawsNaN (.sqrtS 0 1) (flts 0xBF800000 0)
      ∧ drawsNaN (.sqrtD 0 2) (dbls 0xBFF0000000000000 0) := by decide +kernel

/-! ### Loads and stores: memory 88 77 66 55 44 33 22 11 at 0x10010000 -/

def mem8 (s : State) : State := State.withMem s 0x10010000 [0x88, 0x77, 0x66, 0x55, 0x44, 0x33, 0x22, 0x11]

/-- `$8` at the memory, `$9` as given. -/
def ls (a b : Word) : State := mem8 (regs a b)

def big (s : State) : State := { s with cfg := { s.cfg with endian := .big } }

/-- The bytes from 0x10010000 after the instruction. -/
def putsM (i : Instr) (s : State) (a : Nat) (bs : List Byte) : Bool :=
  gives i s fun t => decide (t.bytesAt a bs.length = bs) && t.run == .running

/-- V200 to V203, V205, V206. -/
theorem test_loads :
    putsX (.lb 9 0 8) (ls 0x10010000 0) 9 0xFFFFFF88 ∧ putsX (.lbu 9 0 8) (ls 0x10010000 0) 9 0x88
      ∧ putsX (.lh 9 0 8) (ls 0x10010000 0) 9 0x7788 ∧ putsX (.lhu 9 6 8) (ls 0x10010000 0) 9 0x1122
      ∧ putsX (.lh 9 (-2) 8) (ls 0x10010002 0) 9 0x7788 ∧ putsX (.lw 8 4 8) (ls 0x10010000 0) 8 0x11223344 := by decide

/-- V207 to V218. -/
theorem test_load_faults :
    faults (.lw 0 2 8) (ls 0x10010000 0) .misalignedAddress (some 0x10010002)
      ∧ faults (.lh 9 1 8) (ls 0x10010000 0) .misalignedAddress (some 0x10010001)
      ∧ faults (.lw 9 (-4) 8) (ls 0x10010000 0) .memoryOutOfBounds (some 0x1000FFFC)
      ∧ faults (.lw 9 0 8) (regs 0x80000000 0) .memoryOutOfBounds (some 0x80000000)
      ∧ faults (.lw 9 1 8) (regs 0x80000000 0) .misalignedAddress (some 0x80000001)
      ∧ faults (.lw 9 0 8) (regs 0xFFFF0000 0) .memoryOutOfBounds (some 0xFFFF0000)
      ∧ faults (.lw 9 4 8) (regs 0xFFFFFFFC 0) .memoryOutOfBounds (some 0) ∧ putsX (.lw 9 0 8) (regs 0x7FFFFFFC 5) 9 0
      ∧ putsX (.lw 9 0 8) (regs 0x1003FFFC 5) 9 0 ∧ putsX (.lw 9 0 8) (regs 0x10040000 5) 9 0 := by decide

/-- The five words of a text, `lw $9,0($8)` the last (V219). -/
def inText (s : State) : State := { s with text := [.word 0, .word 0, .word 0, .word 0, .word 0x8D090000] }

/-- V219, V220, V229. -/
theorem test_text_bytes :
    putsX (.lw 9 0 8) (inText (regs 0x00400010 0)) 9 0x8D090000
      ∧ faults (.sw 9 0 8) (inText (regs 0x00400010 0)) .memoryOutOfBounds (some 0x00400010)
      ∧ faults (.swl 9 0 8) (inText (regs 0x00400011 0)) .memoryOutOfBounds (some 0x00400011)
      ∧ putsX (.lwl 9 0 8) (inText (regs 0x00400011 0xAABBCCDD)) 9 0x0000CCDD := by decide

/-- V221 to V223. -/
theorem test_stores :
    putsM (.sb 9 1 8) (ls 0x10010000 0x123456AB) 0x10010000 [0x88, 0xAB, 0x66, 0x55]
      ∧ putsM (.sh 9 2 8) (ls 0x10010000 0x1234ABCD) 0x10010000 [0x88, 0x77, 0xCD, 0xAB, 0x44]
      ∧ putsM (.sw 9 0 8) (ls 0x10010000 0xDEADBEEF) 0x10010000 [0xEF, 0xBE, 0xAD, 0xDE, 0x44]
      ∧ putsM (.sw 9 0 8) (big (ls 0x10010000 0xDEADBEEF)) 0x10010000 [0xDE, 0xAD, 0xBE, 0xEF, 0x44] := by decide

/-- V224, V225; big-endian from the notes after V235. -/
theorem test_lwl_lwr :
    putsX (.lwl 9 0 8) (ls 0x10010000 0xAABBCCDD) 9 0x88BBCCDD ∧ putsX (.lwl 9 2 8) (ls 0x10010000 0xAABBCCDD) 9 0x667788DD
      ∧ putsX (.lwl 9 3 8) (ls 0x10010000 0xAABBCCDD) 9 0x55667788 ∧ putsX (.lwr 9 0 8) (ls 0x10010000 0xAABBCCDD) 9 0x55667788
      ∧ putsX (.lwr 9 1 8) (ls 0x10010000 0xAABBCCDD) 9 0xAA556677 ∧ putsX (.lwr 9 3 8) (ls 0x10010000 0xAABBCCDD) 9 0xAABBCC55
      ∧ putsX (.lwl 9 1 8) (big (ls 0x10010000 0xAABBCCDD)) 9 0x776655DD
      ∧ putsX (.lwr 9 1 8) (big (ls 0x10010000 0xAABBCCDD)) 9 0xAABB8877 := by decide

/-- V226, V227. -/
theorem test_swl_swr :
    putsM (.swl 9 0 8) (ls 0x10010000 0xAABBCCDD) 0x10010000 [0xAA, 0x77, 0x66, 0x55]
      ∧ putsM (.swl 9 2 8) (ls 0x10010000 0xAABBCCDD) 0x10010000 [0xCC, 0xBB, 0xAA, 0x55]
      ∧ putsM (.swl 9 3 8) (ls 0x10010000 0xAABBCCDD) 0x10010000 [0xDD, 0xCC, 0xBB, 0xAA]
      ∧ putsM (.swr 9 0 8) (ls 0x10010000 0xAABBCCDD) 0x10010000 [0xDD, 0xCC, 0xBB, 0xAA]
      ∧ putsM (.swr 9 1 8) (ls 0x10010000 0xAABBCCDD) 0x10010000 [0x88, 0xDD, 0xCC, 0xBB]
      ∧ putsM (.swr 9 3 8) (ls 0x10010000 0xAABBCCDD) 0x10010000 [0x88, 0x77, 0x66, 0xDD, 0x44] := by decide

/-- The big-endian tables of R209 to R212 at k = 1 and k = 3 for the stores. -/
theorem test_swl_swr_big :
    putsM (.swl 9 1 8) (big (ls 0x10010000 0xAABBCCDD)) 0x10010000 [0x88, 0xAA, 0xBB, 0xCC, 0x44]
      ∧ putsM (.swr 9 1 8) (big (ls 0x10010000 0xAABBCCDD)) 0x10010000 [0xCC, 0xDD, 0x66, 0x55] := by decide

/-- V230 to V233, and the big-endian double. -/
theorem test_float_loads :
    faults (.lwc1 3 2 8) (ls 0x10010000 0) .misalignedAddress (some 0x10010002)
      ∧ putsF (.lwc1 2 4 8) (ls 0x10010000 0) 2 0x11223344 ∧ putsF (.ldc1 2 0 8) (ls 0x10010000 0) 2 0x55667788
      ∧ putsF (.ldc1 2 0 8) (ls 0x10010000 0) 3 0x11223344
      ∧ faults (.ldc1 2 4 8) (ls 0x10010000 0) .misalignedAddress (some 0x10010004)
      ∧ putsF (.ldc1 2 0 8) (big (ls 0x10010000 0)) 3 0x88776655 := by decide

/-- V234, V235. -/
theorem test_float_stores :
    putsM (.sdc1 2 (-8) 8) (State.withF (regs 0x80000000 0) [(2, 0x11111111), (3, 0x22222222)]) 0x7FFFFFF8
        [0x11, 0x11, 0x11, 0x11, 0x22, 0x22, 0x22, 0x22]
      ∧ putsM (.swc1 2 0 8) (State.withF (ls 0x10010000 0) [(2, 0x3FC00000)]) 0x10010000 [0x00, 0x00, 0xC0, 0x3F, 0x44] := by
  decide

/-! ### Branches, jumps, flags -/

/-- V240 to V243. -/
theorem test_beq_bne :
    putsPc (.beq 8 9 0x00400020) (regs 5 5) 0x00400020 ∧ putsPc (.beq 8 9 0x00400020) (regs 5 6) 0x00400014
      ∧ putsPc (.bne 8 9 0x00400008) (regs 5 6) 0x00400008 ∧ putsPc (.bne 8 9 0x00400008) (regs 5 5) 0x00400014 := by decide

/-- V244 to V251. -/
theorem test_signed_branches :
    putsPc (.blez 8 0x00400020) (regs 0x80000000 0) 0x00400020 ∧ putsPc (.blez 8 0x00400020) (regs 1 0) 0x00400014
      ∧ putsPc (.bgtz 8 0x00400020) (regs 0 0) 0x00400014 ∧ putsPc (.bgtz 8 0x00400020) (regs 0x7FFFFFFF 0) 0x00400020
      ∧ putsPc (.bltz 8 0x00400020) (regs 0 0) 0x00400014 ∧ putsPc (.bltz 8 0x00400020) (regs 0x80000000 0) 0x00400020
      ∧ putsPc (.bgez 8 0x00400020) (regs 0 0) 0x00400020 ∧ putsPc (.bgez 8 0x00400020) (regs 0xFFFFFFFF 0) 0x00400014 := by
  decide

/-- V252 to V257. -/
theorem test_jumps :
    putsPc (.j 0x0FFFFFFC) base 0x0FFFFFFC ∧ putsPc (.jal 0x00400100) base 0x00400100 ∧ putsX (.jal 0x00400100) base 31 0x00400014
      ∧ putsPc (.jalr 8 8) (regs 0x00400200 0) 0x00400200 ∧ putsX (.jalr 8 8) (regs 0x00400200 0) 8 0x00400014
      ∧ putsX (.jalr 0 8) (regs 0x00400200 0) 0 0 ∧ putsPc (.jr 8) (regs 0x00400012 0) 0x00400012 := by decide

/-- The flags after a compare. -/
def putsCC (i : Instr) (s : State) (l : List Bool) : Bool := gives i s fun t => decide (t.cc.toList = l)

/-- V156 to V161. -/
theorem test_compares :
    putsCC (.cEqS 0 1 2) (flts 0 0x80000000) [true, false, false, false, false, false, false, false]
      ∧ putsCC (.cEqS 0 1 2) (flts 0x7FC00000 0x7FC00000) (List.replicate 8 false)
      ∧ putsCC (.cLtS 3 1 2) (flts 0x80000000 0) (List.replicate 8 false)
      ∧ putsCC (.cLeS 7 1 2) (flts 0xFF800000 0x7F800000) [false, false, false, false, false, false, false, true]
      ∧ putsCC (.cLeS 0 1 2) (flts 0x3F800000 0x7FC00000) (List.replicate 8 false)
      ∧ putsCC (.cLtD 2 2 4) (dbls 0x3FF0000000000000 0x4000000000000000) [false, false, true, false, false, false, false, false]
      ∧ putsCC (.cEqD 1 2 4) (dbls 0x3FF0000000000000 0x3FF0000000000000) [false, true, false, false, false, false, false, false]
      ∧ putsCC (.cLeD 1 2 4) (dbls 0x4000000000000000 0x3FF0000000000000) (List.replicate 8 false) := by
  decide +kernel

/-- V162 to V165. -/
theorem test_flag_branches_and_moves :
    putsPc (.bc1t 3 0x00400020) (base.setCC 3 true) 0x00400020 ∧ putsPc (.bc1f 3 0x00400020) (base.setCC 3 true) 0x00400014
      ∧ putsX (.movt 8 9 1) (regs 1 7) 8 1 ∧ putsX (.movf 8 9 1) (regs 1 7) 8 7 ∧ putsX (.movt 8 9 1) ((regs 1 7).setCC 1 true) 8 7 := by
  decide

/-- V166, V167. -/
theorem test_movn_movz :
    putsX (.movn 8 9 0) (regs 1 7) 8 1 ∧ putsX (.movz 8 9 0) (regs 1 7) 8 7 ∧ putsX (.movn 8 9 9) (regs 1 7) 8 7 := by decide

/-! ### System calls -/

/-- `$v0`, `$a0`, `$a1`. -/
def sys (v a b : Word) : State := State.withX base [(2, v), (4, a), (5, b)]

def writes (s : State) (es : List OutEvent) : Bool := gives .syscall s fun t => decide (t = { s with out := es })

/-- V170 to V177. -/
theorem test_sbrk :
    putsX .syscall (sys 9 0 0) 2 0x10040000
      ∧ gives .syscall (sys 9 1 0) (fun t => t.getX 2 == 0x10040000 && t.heapPtr == 0x10040004)
      ∧ gives .syscall (sys 9 5 0) (fun t => t.heapPtr == 0x10040008) ∧ faults .syscall (sys 9 0xFFFFFFFF 0) .invalidArgument none
      ∧ gives .syscall (sys 9 0x6FFBEFFC 0) (fun t => t.heapPtr == 0x7FFFEFFC)
      ∧ faults .syscall (sys 9 0x6FFBEFFD 0) .memoryOutOfBounds none := by decide

/-- V180 to V186, V312. -/
theorem test_print_string :
    writes (State.withMem (sys 4 0x10010000 0) 0x10010000 [0x48, 0x69, 0x0A]) [.bytes [0x48, 0x69, 0x0A]]
      ∧ writes (sys 4 0x10010000 0) []
      ∧ faults .syscall (State.withMem (sys 4 0x10010000 0) 0x10010000 [0x48, 0x08, 0x69]) .invalidCharacter none
      ∧ faults .syscall (State.withMem (sys 4 0x10010000 0) 0x10010000 [0x7F]) .invalidCharacter none
      ∧ writes (State.withMem (sys 4 0x1003FFFE 0) 0x1003FFFE [0x41, 0x41]) [.bytes [0x41, 0x41]]
      ∧ faults .syscall (State.withMem { sys 4 0x1003FFFE 0 with cfg := { Cfg.example with heapBase := 0x10050000 } } 0x1003FFFE
          [0x41, 0x41]) .memoryOutOfBounds (some 0x10040000) := by decide +kernel

/-- V187 to V189. -/
theorem test_print_numbers :
    writes (sys 1 0x80000000 0) [.bytes (asciiBytes "-2147483648")] ∧ writes (sys 36 0x80000000 0) [.bytes (asciiBytes "2147483648")]
      ∧ writes (sys 35 0x80000001 0) [.bytes (asciiBytes "10000000000000000000000000000001")]
      ∧ writes (sys 1 0 0) [.bytes (asciiBytes "0")] := by decide +kernel

/-- V190 to V192. -/
theorem test_print_char :
    writes (sys 11 0x41 0) [.bytes [0x41]] ∧ writes (sys 11 0 0) [.bytes [0]] ∧ faults .syscall (sys 11 8 0) .invalidCharacter none
      ∧ faults .syscall (sys 11 0x7F 0) .invalidCharacter none ∧ faults .syscall (sys 11 0x141 0) .invalidCharacter none
      ∧ faults .syscall (sys 11 0xFFFFFFFF 0) .invalidCharacter none := by decide

/-- S5, V193 to V195, V199. -/
theorem test_atoi :
    (["02113", "-12345", "2147483647", "-2147483648", "-0"].zip [0x841, 0xFFFFCFC7, 0x7FFFFFFF, 0x80000000, 0]).all
        (fun p => putsX .syscall (State.withMem (sys 6 0x10010000 0) 0x10010000 (asciiBytes p.1)) 2 p.2) = true
      ∧ ["--12345", "123e45", "", "-", "+5", " 5", "5 ", "0x10"].all
        (fun t => faults .syscall (State.withMem (sys 6 0x10010000 0) 0x10010000 (asciiBytes t)) .invalidCharacter none) = true := by
  decide +kernel

/-- At the last byte of memory: a byte outside the allowed set raises at once, a digit needs the byte after it
(20_memory.md R55). A numeral past the range has no next state (U9). -/
theorem test_atoi_edges :
    faults .syscall (State.withMem (sys 6 0x7FFFFFFF 0) 0x7FFFFFFF [0x08]) .invalidCharacter none
      ∧ faults .syscall (State.withMem (sys 6 0x7FFFFFFF 0) 0x7FFFFFFF [0x37]) .memoryOutOfBounds (some 0x80000000)
      ∧ stops (exec .syscall (State.withMem (sys 6 0x10010000 0) 0x10010000 (asciiBytes "2147483648"))) .numeralOutOfRange
      ∧ stops (exec .syscall ((sys 5 0 0).setInput [asciiBytes "-2147483649"])) .numeralOutOfRange := by decide +kernel

/-- V301, V302; no line, no step (R272). -/
theorem test_read_int :
    putsX .syscall ((sys 5 0 0).setInput [asciiBytes "42"]) 2 42 ∧ putsX .syscall ((sys 5 0 0).setInput [asciiBytes "-7"]) 2 0xFFFFFFF9
      ∧ gives .syscall ((sys 5 0 0).setInput [asciiBytes "4x", []])
        (fun t => t.run == .faulted && t.getX 2 == 5 && decide (t.input = [[]])
          && decide (t.fault = some ⟨.invalidInput, 0x00400010, none, none⟩))
      ∧ stops (exec .syscall (sys 5 0 0)) .awaitingInput := by decide +kernel

/-- V303 to V307. -/
theorem test_read_string :
    putsM .syscall ((mem8 (sys 8 0x10010000 4)).setInput [asciiBytes "hello"]) 0x10010000 [0x68, 0x65, 0x6C, 0x00, 0x44]
      ∧ putsM .syscall ((mem8 (sys 8 0x10010000 1)).setInput [asciiBytes "hello"]) 0x10010000 [0x00, 0x77]
      ∧ gives .syscall (sys 8 0x10010000 0xFFFFFFFF) (fun t => decide (t = sys 8 0x10010000 0xFFFFFFFF))
      ∧ putsM .syscall ((mem8 (sys 8 0x10010000 10)).setInput [[]]) 0x10010000 [0x00, 0x77]
      ∧ gives .syscall ((sys 8 0x00400000 4).setInput [asciiBytes "hi"])
        (fun t => decide (t.fault = some ⟨.memoryOutOfBounds, 0x00400010, some 0x00400000, none⟩) && decide (t.mem = [])) := by
  decide +kernel

/-- V308. -/
theorem test_unknown_services :
    ([0, 7, 12, 33, 43, 0xFFFFFFFF] : List Word).all (fun v => faults .syscall (sys v 0 0) .invalidArgument none) = true := by decide

/-- V309 (21 counted), V310. -/
theorem test_exit :
    gives .syscall { sys 10 0 0 with icount := 21 } (fun t => t.run == .halted && t.exitCode == some 0
        && decide (t.out = [.bytes (asciiBytes "\nInstruction count: 21")]))
      ∧ gives .syscall { sys 17 0xFFFFFFFE 0 with cfg := { Cfg.example with showIcount := false } }
        (fun t => t.run == .halted && t.exitCode == some (-2) && decide (t.out = [])) := by decide +kernel

/-- V196 to V198, V311 (S8): the draw after a seed depends on the seed alone. -/
theorem test_random :
    (faults .syscall (sys 42 0 0xFFFFFFFF) .invalidArgument none = true ∧ gives .syscall (sys 40 0x2A 0) (fun t => t.run == .running) = true)
      ∧ exec .syscall (sys 40 0x2A 0) = .next ((sys 40 0x2A 0).setGen (Config.seedG 0x2A))
      ∧ exec .syscall ((sys 41 7 9).setGen (Config.seedG 0x2A))
        = .next (((sys 41 7 9).setGen (Config.nextG (Config.seedG 0x2A)).2).setX 2 (Config.nextG (Config.seedG 0x2A)).1) :=
  ⟨by decide, rfl, rfl⟩

/-- S6's bytes, through service 30; services 2, 3, 34, 31, 32. -/
theorem test_dumps :
    writes (mem8 (sys 30 0x10010001 3)) [.memDump 0x10010001 [0x77, 0x66, 0x55]]
      ∧ faults .syscall (sys 30 0x7FFFFFFF 2) .memoryOutOfBounds (some 0x80000000)
      ∧ writes (State.withF (sys 2 0 0) [(12, 0x3F800000)]) [.printFloat 0x3F800000]
      ∧ writes (State.withFD (sys 3 0 0) [(12, 0x3FF0000000000000)]) [.printDouble 0x3FF0000000000000]
      ∧ writes (sys 34 0xABC 0) [.printHex 0xABC] ∧ writes (sys 31 0 0) [.regDump (sys 31 0 0).snapshot]
      ∧ writes (sys 32 0 0) [.dumpFiles [.stdin, .stdout, .stderr]] := by decide

/-! ### Steps -/

/-- A whole step ends in a state that `p` accepts. -/
def steps (s : State) (p : State → Bool) : Bool :=
  match step s with
  | .next t => p t
  | _ => false

/-- V320. -/
theorem test_reset :
    State.reset.pc = 0x00400000 ∧ State.reset.getX 29 = 0x7FFFEFFC ∧ State.reset.heapPtr = 0x10040000
      ∧ State.reset.run = .ready ∧ Memory.wf State.reset.mem = true := by decide

/-- V321 to V324: fetch faults. -/
theorem test_fetch_faults :
    ([(0x00400002, FaultKind.misalignedAddress), (0x00400014, .memoryOutOfBounds), (0x003FFFFC, .memoryOutOfBounds),
      (0x00400003, .misalignedAddress)] : List (Word × FaultKind)).all (fun p =>
        steps (inText { base with pc := p.1 }) fun t => t.pc == p.1 && t.icount == 5 && t.run == .faulted
          && decide (t.fault = some ⟨p.2, p.1, some p.1, none⟩)) = true := by decide

/-- V325, by a level-2 word; the reserved word of V265. -/
theorem test_step_fault :
    steps ((State.withX { base with pc := 0x00400010, icount := 4 } [(8, 0x7FFFFFFF), (9, 1)]).withFetchWord 32 0x01095020)
        (fun t => t.pc == 0x00400014 && t.icount == 5 && decide (t.fault = some ⟨.arithmeticOverflow, 0x00400010, none, none⟩)
          && t.getX 10 == 0)
      ∧ steps ({ base with pc := 0x00400010, icount := 4 }.withFetchWord 32 0x01095060)
        (fun t => t.pc == 0x00400014 && t.icount == 5 && decide (t.fault = some ⟨.reservedInstruction, 0x00400010, none, some 0x01095060⟩)) := by
  decide

/-- A level-1 record runs, immediates out of the encodable range included (V23); an ill-formed one is refused. -/
theorem test_records :
    steps { State.reset with text := [.record (.lui 8 65536)] }
        (fun t => decide (t.fault = some ⟨.invalidImmediate, 0x00400000, none, none⟩))
      ∧ refuses (step { State.reset with text := [.record (.addD 1 2 4)] }) .illFormedRecord := by decide

/-- V326; the reset state itself, with no program loaded. -/
theorem test_no_step_after_the_end :
    stops (step { State.reset with run := .halted }) .runEnded ∧ stops (step { State.reset with run := .faulted }) .runEnded
      ∧ steps State.reset (fun t => decide (t.fault = some ⟨.memoryOutOfBounds, 0x00400000, some 0x00400000, none⟩)) = true := by decide

/-- The host's two questions, on P1's first word: `addiu $4,$0,10`. -/
theorem test_host_forms :
    decodeTableWord 32 0x2404000A = some (.addiu 4 0 10) ∧ decodeTableWord 32 0x0C100006 = some (.jal 0x00400018)
      ∧ decodeTableWord 32 0xFFFFFFFF = none
      ∧ steps (State.reset.withFetchWord 32 0x2404000A) (fun t => t.getX 4 == 10 && t.pc == 0x00400004 && t.icount == 1) = true := by
  decide

/-! ### Witnesses: for each statement with hypotheses, states and operands that meet them, clause by clause, at the
boundaries of their ranges -/

/-- A launch of a word and a record, with an image. -/
def sample : Launch := launch [.word 0x2404000A, .record (.addiu 4 0 10)] [(0x10010000, [1, 0])]

theorem witness_ALaunchStartsAtItsConfiguredValues : ∃ s, sample.boot = .ok s := ⟨_, rfl⟩

theorem witness_ALaunchSatisfiesTheInvariant : ∃ s, sample.boot = .ok s := ⟨_, rfl⟩

/-- `addiu $4,$0,10` is next, a byte stands in memory. -/
def ready : State := (State.withMem State.reset 0x10010000 [1]).withFetchWord 32 0x2404000A

theorem witness_EveryStepKeepsTheInvariant : ready.Inv ∧ ∃ t, step ready = .next t :=
  ⟨⟨by decide, by decide, by decide, by decide, by decide, by decide, by decide⟩, _, rfl⟩

theorem witness_DecodeOfEncodeIsTheInstruction :
    ([.addi 31 0 (-32768), .addiu 1 2 32767, .ori 1 2 65535, .lui 31 0, .sll 31 30 31, .sra 1 2 0, .addD 30 0 2,
      .beq 1 2 (0x00400014 + 131068), .bne 1 2 (0x00400014 - 131072), .bgez 31 0x00400014, .j 0x0FFFFFFC, .jal 0,
      .cLeD 7 30 2, .bc1f 7 0x00400010, .movt 31 1 7, .cvtDW 30 31, .ldc1 30 (-32768) 31, .clz 31 1, .syscall] :
        List Instr).all (fun i => i.wellFormed && i.encodable 0x00400010) = true := by decide

theorem witness_ADecodedWordFitsExactlyItsRow :
    decode 0x00400010 0xFFFFFFFF = .error .noRow ∧ (∀ r ∈ opcodeTable, r.fits 0xFFFFFFFF = false)
      ∧ decode 0x00400010 0x03FFFFCC = .ok .syscall := by decide

theorem witness_AStepRunsTheDecodedInstruction :
    (ready.run = .ready ∧ ready.pc.toNat % 4 = 0 ∧ ready.cfg.textBase ≤ ready.pc.toNat
        ∧ ready.text[(ready.pc.toNat - ready.cfg.textBase) / 4]? = some (.word 0x2404000A)
        ∧ decode ready.pc 0x2404000A = .ok (.addiu 4 0 10))
      ∧ ([Slot.record (.lui 8 65536)][0]? = some (.record (.lui 8 65536)) ∧ (Instr.lui 8 65536).wellFormed = true) := by
  decide

/-- A text of two words, run `s` at `pc = a`. -/
def atPc (r : RunState) (a : Word) : State := { State.reset with text := [.word 0, .word 0x01095060], run := r, pc := a }

theorem witness_FetchFaultsAndReservedWords :
    ((atPc .ready 0x00400002).pc.toNat % 4 ≠ 0)
      ∧ ((atPc .running 0x003FFFFC).pc.toNat % 4 = 0 ∧ (atPc .running 0x003FFFFC).pc.toNat < (atPc .running 0).cfg.textBase)
      ∧ ((atPc .running 0x00400008).cfg.textBase + 4 * (atPc .running 0).text.length ≤ (atPc .running 0x00400008).pc.toNat)
      ∧ ((atPc .ready 0x00400004).text[((0x00400004 : Word).toNat - 0x00400000) / 4]? = some (.word 0x01095060)
        ∧ decode 0x00400004 0x01095060 = .error .noRow) := by decide

theorem witness_HaltedAndFaultedTakeNoStep : (atPc .halted 0).run = .halted ∧ (atPc .faulted 0).run = .faulted := by decide

theorem witness_FaultsArePrecise :
    (∃ t, exec (.add 10 8 9) (regs 0x7FFFFFFF 1) = .next t ∧ (regs 0x7FFFFFFF 1).run ≠ .faulted ∧ t.run = .faulted)
      ∧ ∃ t, exec .syscall ((sys 5 0 0).setInput [[0x34, 0x78]]) = .next t ∧ (sys 5 0 0).run ≠ .faulted ∧ t.run = .faulted :=
  ⟨⟨_, rfl, by decide, rfl⟩, _, rfl, by decide, rfl⟩

theorem witness_OnlyTransfersWritePcAndEachFetchCountsOnce :
    (∃ t, exec (.addu 10 8 9) (regs 1 2) = .next t ∧ (Instr.addu 10 8 9).transfers = false) ∧ ∃ t, step ready = .next t :=
  ⟨⟨_, rfl, rfl⟩, _, rfl⟩

theorem witness_HiLoAndFlagsHaveTheirOnlyWriters :
    ∃ t, exec (.cEqS 1 2 3) base = .next t ∧ (Instr.cEqS 1 2 3).writesHiLo = false ∧ (Instr.cEqS 1 2 3).flagDest ≠ some 0 :=
  ⟨_, rfl, rfl, by decide⟩

theorem witness_OnlyNamedIntegerRegistersChange :
    (∃ t, exec (.add 10 8 9) (regs 1 2) = .next t ∧ (11 : Reg) ∉ (Instr.add 10 8 9).intDests (regs 1 2))
      ∧ ∃ t, exec .syscall (sys 9 5 0) = .next t ∧ (4 : Reg) ∉ Instr.syscall.intDests (sys 9 5 0) :=
  ⟨⟨_, rfl, by decide⟩, _, rfl, by decide⟩

theorem witness_OnlyNamedFloatRegistersChange :
    ∃ t, exec (.addD 0 2 4) (dbls 0 0) = .next t ∧ (2 : FReg) ∉ (Instr.addD 0 2 4).floatDests := ⟨_, rfl, by decide⟩

/-- The bytes on either side of the four that `sw` stores; no byte at all for `lw`; after the terminator of service 8. -/
theorem witness_MemoryChangesOnlyWhereStored :
    (∃ t, exec (.sw 9 0 8) (ls 0x10010004 7) = .next t
        ∧ ¬ (Instr.sw 9 0 8).storesTo (ls 0x10010004 7) 0x10010003 ∧ ¬ (Instr.sw 9 0 8).storesTo (ls 0x10010004 7) 0x10010008)
      ∧ (∃ t, exec (.swl 9 2 8) (ls 0x10010000 7) = .next t ∧ ¬ (Instr.swl 9 2 8).storesTo (ls 0x10010000 7) 0x10010003)
      ∧ (∃ t, exec (.lw 9 0 8) (ls 0x10010004 7) = .next t ∧ ¬ (Instr.lw 9 0 8).storesTo (ls 0x10010004 7) 0x10010004)
      ∧ ∃ t, exec .syscall ((sys 8 0x10010000 3).setInput [[1, 2, 3]]) = .next t
        ∧ ¬ Instr.syscall.storesTo ((sys 8 0x10010000 3).setInput [[1, 2, 3]]) 0x10010003 := by
  refine ⟨⟨_, rfl, ?_, ?_⟩, ⟨_, rfl, ?_⟩, ⟨_, rfl, id⟩, _, rfl, ?_⟩
  · show ¬ ((0x10010004 : Nat) ≤ 0x10010003 ∧ _); omega
  · show ¬ (_ ∧ (0x10010008 : Nat) < 0x10010004 + 4); omega
  · show ¬ (_ ∧ (0x10010003 : Nat) ≤ 0x10010002); omega
  · rintro ⟨_, l, rest, h, k, hk, ha⟩
    obtain ⟨rfl, rfl⟩ : [1, 2, 3] = l ∧ [] = rest := by simpa using h
    have hk' : k ≤ 2 := hk
    have ha' : 0x10010003 = ((0x10010000 : Word) + BitVec.ofNat 32 k).toNat := ha
    have : k = 0 ∨ k = 1 ∨ k = 2 := by omega
    rcases this with rfl | rfl | rfl <;> revert ha' <;> decide

theorem witness_LaunchParametersHeapAndHostStateHaveTheirOnlyWriters :
    (∃ t, exec .syscall (sys 9 5 0) = .next t ∧ t.heapPtr ≠ (sys 9 5 0).heapPtr)
      ∧ ∃ s t, exec .syscall s = .next t ∧ t.gen ≠ s.gen :=
  ⟨⟨_, rfl, by decide⟩, (sys 40 7 0).setGen (Config.seedG 7 + 1), _, rfl, Nat.ne_of_lt (Nat.lt_succ_self _)⟩

theorem witness_TheConsoleIsReachedOnlyBySyscall : ∃ t, exec (.addu 10 8 9) (regs 1 2) = .next t ∧ Instr.addu 10 8 9 ≠ .syscall :=
  ⟨_, rfl, by decide⟩

/-- The first address of the MMIO range; a byte of the text. -/
theorem witness_AdmissionIsTheSegmentRule :
    (inText base).cfg.wellFormed (inText base).text.length = true ∧ (inText base).cfg.mmioBase < 0xFFFF0000 + 1
      ∧ (inText base).cfg.textBase ≤ 0x00400013 ∧ 0x00400013 < (inText base).cfg.textBase + 4 * (inText base).text.length := by
  decide

theorem witness_TextBytesAreTheWordsAndNeverChange :
    ((inText base).cfg.wellFormed (inText base).text.length = true ∧ (inText base).text[4]? = some (.word 0x8D090000)
        ∧ 0x00400013 < (inText base).cfg.textBase + 4 * (inText base).text.length)
      ∧ ∃ t, step { inText base with pc := 0x00400000 } = .next t := ⟨by decide, _, rfl⟩

theorem witness_ALoadReturnsTheLatestStore :
    (∃ t, exec (.sb 9 (-1) 8) (ls 0x80000000 7) = .next t ∧ t.run ≠ .faulted)
      ∧ (∃ t, exec (.sh 9 (-2) 8) (ls 0x80000000 7) = .next t ∧ t.run ≠ .faulted)
      ∧ (∃ t, exec (.sw 9 (-4) 8) (ls 0x80000000 7) = .next t ∧ t.run ≠ .faulted)
      ∧ (∃ t, exec (.swc1 9 0 8) (ls 0x10010000 7) = .next t ∧ t.run ≠ .faulted)
      ∧ ∃ t, exec (.sdc1 2 0 8) (ls 0x10010000 7) = .next t ∧ t.run ≠ .faulted :=
  ⟨⟨_, rfl, by decide⟩, ⟨_, rfl, by decide⟩, ⟨_, rfl, by decide⟩, ⟨_, rfl, by decide⟩, _, rfl, by decide⟩

/-- The last unaligned word of the data range. -/
theorem witness_TheLwrLwlPairLoadsAnUnalignedWord :
    (regs 0x1003FFF9 0).cfg.endian = .little ∧ (9 : Reg) ≠ 8
      ∧ ∀ k, k = (addressOf (regs 0x1003FFF9 0) 8 0).toNat / 4 ∨ k = ((addressOf (regs 0x1003FFF9 0) 8 0).toNat + 3) / 4 →
        (regs 0x1003FFF9 0).readAdmitted (4 * k) 4 = true :=
  ⟨rfl, by decide, by rintro k (rfl | rfl) <;> decide⟩

/-- Sums and differences at both ends of the signed range, and one past each. -/
theorem witness_AddSubAddiCheckTheSignedRange :
    inWord (((regs 0x7FFFFFFE 1).getX 8).toInt + ((regs 0x7FFFFFFE 1).getX 9).toInt)
      ∧ ¬ inWord (((regs 0x7FFFFFFF 1).getX 8).toInt + ((regs 0x7FFFFFFF 1).getX 9).toInt)
      ∧ inWord (((regs 0x80000001 1).getX 8).toInt - ((regs 0x80000001 1).getX 9).toInt)
      ∧ ¬ inWord (((regs 0x80000000 1).getX 8).toInt - ((regs 0x80000000 1).getX 9).toInt)
      ∧ inWord (((regs 0x80008000 1).getX 8).toInt + (-32768)) ∧ ¬ inWord (((regs 0x80007FFF 1).getX 8).toInt + (-32768)) := by
  unfold inWord; decide

theorem witness_UpperAndLogicalImmediatesCheckSixteenBits :
    ((0 : Int) ≤ 0 ∧ (0 : Int) < 65536) ∧ ((0 : Int) ≤ 65535 ∧ (65535 : Int) < 65536) ∧ ¬ ((0 : Int) ≤ -1 ∧ (-1 : Int) < 65536)
      ∧ ¬ ((0 : Int) ≤ 65536 ∧ (65536 : Int) < 65536) := by decide

theorem witness_ShiftsTakeTheirAmountModulo32 :
    ((0 : Int) ≤ 0 ∧ (0 : Int) < 32) ∧ ((0 : Int) ≤ 31 ∧ (31 : Int) < 32) ∧ ¬ ((0 : Int) ≤ -1 ∧ (-1 : Int) < 32)
      ∧ ¬ ((0 : Int) ≤ 32 ∧ (32 : Int) < 32) := by decide

theorem witness_DivisionTruncatesTowardZero :
    ((regs 0x80000000 0xFFFFFFFF).getX 9).toInt ≠ 0 ∧ ((regs 5 0).getX 9).toInt = 0
      ∧ ((regs 0x80000000 0xFFFFFFFF).getX 9).toNat ≠ 0 ∧ ((regs 5 0).getX 9).toNat = 0 := by decide

/-! The data of the two registers of `flts` and of the two pairs of `dbls`. -/

theorem witness_NaNOperandsAndInvalidOperationsGiveNaN :
    ((flts 0x7F800001 0).datumS 1 = .nan ∧ (flts 0 0xFFFFFFFF).datumS 2 = .nan ∧ (dbls 0x7FF0000000000001 0).datumD 2 = .nan
        ∧ (dbls 0 0xFFFFFFFFFFFFFFFF).datumD 4 = .nan)
      ∧ ((flts 0x7F800000 0xFF800000).datumS 1 = .inf false ∧ (flts 0x7F800000 0xFF800000).datumS 2 = .inf (!false)
        ∧ (flts 0xFF800000 0x80000000).datumS 1 = .inf true ∧ (flts 0xFF800000 0x80000000).datumS 2 = .fin true 0
        ∧ (flts 0 0x7F800000).datumS 1 = .fin false 0 ∧ (flts 0x80000001 0).datumS 1 = .fin true (0 + 1))
      ∧ ((dbls 0x7FF0000000000000 0xFFF0000000000000).datumD 2 = .inf false
        ∧ (dbls 0x7FF0000000000000 0xFFF0000000000000).datumD 4 = .inf (!false)
        ∧ (dbls 0xFFF0000000000000 0x8000000000000000).datumD 2 = .inf true
        ∧ (dbls 0xFFF0000000000000 0x8000000000000000).datumD 4 = .fin true 0
        ∧ (dbls 0 0).datumD 2 = .fin false 0 ∧ (dbls 0x8000000000000001 0).datumD 2 = .fin true (0 + 1)) := by decide +kernel

theorem witness_FloatDivisionAndInfinities :
    base.cfg.div0Sign = .asWritten
      ∧ ((flts 1 0x80000000).datumS 1 = .fin false (0 + 1) ∧ (flts 1 0x80000000).datumS 2 = .fin true 0
        ∧ (flts 0x7F800000 0).datumS 1 = .inf false ∧ (flts 0x80000000 0xFF800000).datumS 1 = .fin true 0
        ∧ (flts 0x80000000 0xFF800000).datumS 2 = .inf true ∧ (flts 0x7F800000 1).datumS 2 = .fin false (0 + 1)
        ∧ (flts 0xFF800000 0xFF800000).datumS 1 = .inf true ∧ (flts 0xFF800000 0xFF800000).datumS 2 = .inf true
        ∧ (flts 0xFF800000 0x7F800000).datumS 2 = .inf (!true))
      ∧ ((dbls 1 0x8000000000000000).datumD 2 = .fin false (0 + 1) ∧ (dbls 1 0x8000000000000000).datumD 4 = .fin true 0
        ∧ (dbls 0x7FF0000000000000 0).datumD 2 = .inf false ∧ (dbls 0 0xFFF0000000000000).datumD 2 = .fin false 0
        ∧ (dbls 0 0xFFF0000000000000).datumD 4 = .inf true ∧ (dbls 0x7FF0000000000000 1).datumD 4 = .fin false (0 + 1)
        ∧ (dbls 0xFFF0000000000000 0xFFF0000000000000).datumD 2 = .inf true
        ∧ (dbls 0xFFF0000000000000 0xFFF0000000000000).datumD 4 = .inf true
        ∧ (dbls 0xFFF0000000000000 0x7FF0000000000000).datumD 4 = .inf (!true)) := by
  decide +kernel

/-- The smallest subnormal and the largest finite number of each format. -/
theorem witness_FiniteArithmeticRoundsOnceToNearestEven :
    ((flts 0x80000001 0x7F7FFFFF).datumS 1 = .fin true 1
        ∧ (flts 0x80000001 0x7F7FFFFF).datumS 2 = .fin false ((2 ^ 24 - 1) * 2 ^ 253) ∧ (2 ^ 24 - 1) * 2 ^ 253 ≠ 0)
      ∧ ((dbls 0x8000000000000001 0x3FF0000000000000).datumD 2 = .fin true 1
        ∧ (dbls 0x8000000000000001 0x3FF0000000000000).datumD 4 = .fin false (2 ^ 1074) ∧ 2 ^ 1074 ≠ 0) := by decide +kernel

theorem witness_SquareRootsRoundOnceToNearestEven :
    (flts 1 0).datumS 1 = .fin false (0 + 1) ∧ (flts 0x3F800000 0).datumS 1 = .fin false (2 ^ 149 - 1 + 1)
      ∧ (dbls 1 0).datumD 2 = .fin false (0 + 1) ∧ (dbls 0x3FF0000000000000 0).datumD 2 = .fin false (2 ^ 1074 - 1 + 1) := by
  decide +kernel

/-- Misaligned; the words on either side of each bound; the last word of each region. -/
theorem witness_IntegerLoadsReadAndExtend :
    ((addressOf (regs 0x10010000 0) 8 1).toNat % 2 ≠ 0 ∧ (addressOf (regs 0x10010000 0) 8 2).toNat % 4 ≠ 0)
      ∧ (base.readAdmitted (addressOf (regs 0x10010000 0) 8 (-1)).toNat 1 = false
        ∧ base.readAdmitted (addressOf (regs 0x10010000 0) 8 (-2)).toNat 2 = false
        ∧ (addressOf (regs 0xFFFFFFFC 0) 8 4).toNat % 4 = 0
        ∧ base.readAdmitted (addressOf (regs 0xFFFFFFFC 0) 8 4).toNat 4 = false)
      ∧ (base.readAdmitted (addressOf (regs 0x80000000 0) 8 (-1)).toNat 1 = true
        ∧ base.readAdmitted (addressOf (regs 0x80000000 0) 8 (-2)).toNat 2 = true
        ∧ base.readAdmitted (addressOf (regs 0x80000000 0) 8 (-4)).toNat 4 = true
        ∧ (inText base).readAdmitted (addressOf (regs 0x00400010 0) 8 0).toNat 4 = true) := by decide

theorem witness_IntegerStoresReplaceExactlyTheirBytes :
    ((addressOf (regs 0x10010000 0) 8 1).toNat % 2 ≠ 0 ∧ (addressOf (regs 0x10010000 0) 8 3).toNat % 4 ≠ 0)
      ∧ ((inText base).writeAdmitted (addressOf (regs 0x00400010 0) 8 0).toNat 4 = false
        ∧ base.writeAdmitted (addressOf (regs 0x10010000 0) 8 (-1)).toNat 1 = false
        ∧ base.writeAdmitted (addressOf (regs 0x80000000 0) 8 0).toNat 2 = false)
      ∧ (base.writeAdmitted (addressOf (regs 0x10010000 0) 8 0).toNat 1 = true
        ∧ base.writeAdmitted (addressOf (regs 0x80000000 0) 8 (-2)).toNat 2 = true
        ∧ base.writeAdmitted (addressOf (regs 0x1003FFFC 0) 8 0).toNat 4 = true) := by decide

theorem witness_FloatLoadsAndStoresMoveRawBits :
    ((addressOf (regs 0x10010000 0) 8 2).toNat % 4 ≠ 0 ∧ (addressOf (regs 0x10010000 0) 8 4).toNat % 8 ≠ 0)
      ∧ (base.readAdmitted (addressOf (regs 0x10010000 0) 8 (-8)).toNat 8 = false
        ∧ base.writeAdmitted (addressOf (regs 0x80000000 0) 8 0).toNat 4 = false)
      ∧ (base.readAdmitted (addressOf (regs 0x80000000 0) 8 (-8)).toNat 8 = true
        ∧ base.writeAdmitted (addressOf (regs 0x80000000 0) 8 (-8)).toNat 8 = true
        ∧ base.readAdmitted (addressOf (regs 0x80000000 0) 8 (-4)).toNat 4 = true
        ∧ base.writeAdmitted (addressOf (regs 0x10010000 0) 8 0).toNat 4 = true) := by decide

/-- Both byte orders; k = 0 and k = 3 at the last word of memory; the first word that does not exist. -/
theorem witness_PartialLoadsMergeByTheByteTables :
    (base.cfg.endian = .little ∧ (big base).cfg.endian = .big)
      ∧ (base.readAdmitted (0x7FFFFFFC - 0) (0 + 1) = true ∧ base.readAdmitted (0x7FFFFFFF - 3) (3 + 1) = true
        ∧ base.readAdmitted 0x7FFFFFFF (4 - 3) = true ∧ (big base).readAdmitted 0x7FFFFFFC (4 - 0) = true)
      ∧ (base.readAdmitted (0x80000000 - 0) (0 + 1) = false ∧ base.readAdmitted 0x80000003 (4 - 3) = false
        ∧ (big base).readAdmitted 0x80000000 (4 - 0) = false) := by decide

theorem witness_PartialStoresReplaceByTheByteTables :
    (base.cfg.endian = .little ∧ (big base).cfg.endian = .big)
      ∧ (base.writeAdmitted (0x7FFFFFFC - 0) (0 + 1) = true ∧ base.writeAdmitted 0x7FFFFFFF (4 - 3) = true
        ∧ (big base).writeAdmitted 0x7FFFFFFC (4 - 0) = true ∧ (big base).writeAdmitted (0x7FFFFFFF - 3) (3 + 1) = true)
      ∧ ((inText base).writeAdmitted (0x00400011 - 1) (1 + 1) = false ∧ (big base).writeAdmitted 0x80000003 (4 - 3) = false) := by
  decide

theorem witness_ConditionalBranches :
    ((regs 5 5).getX 8 = (regs 5 5).getX 9 ∧ (regs 5 6).getX 8 ≠ (regs 5 6).getX 9)
      ∧ (((regs 0 0).getX 8).toInt ≤ 0 ∧ ¬ ((regs 1 0).getX 8).toInt ≤ 0) ∧ (((regs 1 0).getX 8).toInt > 0 ∧ ¬ ((regs 0 0).getX 8).toInt > 0)
      ∧ (((regs 0xFFFFFFFF 0).getX 8).toInt < 0 ∧ ¬ ((regs 0 0).getX 8).toInt < 0)
      ∧ (((regs 0 0).getX 8).toInt ≥ 0 ∧ ¬ ((regs 0xFFFFFFFF 0).getX 8).toInt ≥ 0)
      ∧ ((base.setCC 7 true).getCC 7 = true ∧ base.getCC 7 = false) := by decide

theorem not_ordered_nan_left (r : Int × Int → Int × Int → Prop) (b : Datum) : ¬ Ordered r .nan b := by
  rintro ⟨p, q, h, _⟩; cases h

theorem not_ordered_nan_right (r : Int × Int → Int × Int → Prop) (a : Datum) : ¬ Ordered r a .nan := by
  rintro ⟨p, q, _, h, _⟩; cases h

/-- Equal zeros of two signs, the two infinities, a NaN. -/
theorem witness_FloatComparesWriteOneFlag :
    Ordered (fun p q => p = q) ((flts 0 0x80000000).datumS 1) ((flts 0 0x80000000).datumS 2)
      ∧ Ordered placeLt ((flts 0xFF800000 0x7F800000).datumS 1) ((flts 0xFF800000 0x7F800000).datumS 2)
      ∧ ¬ Ordered (fun p q => placeLt p q ∨ p = q) ((flts 0x3F800000 0x7FC00000).datumS 1) ((flts 0x3F800000 0x7FC00000).datumS 2)
      ∧ Ordered (fun p q => placeLt p q ∨ p = q) ((dbls 0 0x8000000000000000).datumD 2) ((dbls 0 0x8000000000000000).datumD 4)
      ∧ Ordered placeLt ((dbls 0xFFF0000000000000 1).datumD 2) ((dbls 0xFFF0000000000000 1).datumD 4)
      ∧ ¬ Ordered (fun p q => p = q) ((dbls 0x7FF8000000000000 0).datumD 2) ((dbls 0x7FF8000000000000 0).datumD 4) :=
  ⟨⟨_, _, rfl, rfl, rfl⟩, ⟨_, _, rfl, rfl, .inl (by decide)⟩, not_ordered_nan_right _ _, ⟨_, _, rfl, rfl, .inr rfl⟩,
    ⟨_, _, rfl, rfl, .inl (by decide)⟩, not_ordered_nan_left _ _⟩

theorem witness_ConditionalMoves :
    ((base.setCC 0 true).getCC 0 = true ∧ base.getCC 0 = false) ∧ ((regs 1 7).getX 9 ≠ 0 ∧ (regs 1 0).getX 9 = 0) := by decide

theorem witness_UnknownServicesRaiseInvalidArgument :
    ([0, 7, 43, 0xFFFFFFFF] : List Word).all (fun v => decide (((sys v 0 0).getX 2).toInt ∉
      ([1, 2, 3, 4, 5, 6, 8, 9, 10, 11, 17, 30, 31, 32, 34, 35, 36, 40, 41, 42] : List Int))) = true := by decide

theorem witness_PrintServicesOnlyWriteTheirValue :
    ((sys 1 0 0).getX 2).toInt = 1 ∧ ((sys 36 0 0).getX 2).toInt = 36 ∧ ((sys 35 0 0).getX 2).toInt = 35
      ∧ ((sys 2 0 0).getX 2).toInt = 2 ∧ ((sys 3 0 0).getX 2).toInt = 3 ∧ ((sys 34 0 0).getX 2).toInt = 34 := by decide

/-- The string `Hi` at the end of the data range, ended by the first byte of the dynamic region; a string of one byte that
is not allowed; one that runs off the end of memory. -/
theorem witness_PrintCharAndPrintStringValidateFirst :
    (((sys 11 0x7E 0).getX 2).toInt = 11 ∧ 0x20 ≤ ((sys 11 0x7E 0).getX 4).toNat ∧ ((sys 11 0x7E 0).getX 4).toNat ≤ 0x7E)
      ∧ ¬ ((sys 11 0x7F 0).getX 4 = 0 ∨ (sys 11 0x7F 0).getX 4 = 9 ∨ (sys 11 0x7F 0).getX 4 = 10
          ∨ 0x20 ≤ ((sys 11 0x7F 0).getX 4).toNat ∧ ((sys 11 0x7F 0).getX 4).toNat ≤ 0x7E)
      ∧ (((sys 4 0 0).getX 2).toInt = 4 ∧ (∀ b ∈ ([0x48, 0x69] : List Byte), b = 0x09 ∨ b = 0x0A ∨ (0x20 ≤ b.toNat ∧ b.toNat ≤ 0x7E))
        ∧ HoldsString (State.withMem base 0x1003FFFE [0x48, 0x69]) 0x1003FFFE [0x48, 0x69])
      ∧ (HoldsBytes (State.withMem base 0x10010000 [0x08]) 0x10010000 ([] ++ [0x08]) ∧ ¬ Allowed 0x08)
      ∧ (HoldsBytes (State.withMem base 0x7FFFFFFF [0x48]) 0x7FFFFFFF [0x48]
        ∧ base.readAdmitted ((0x7FFFFFFF : Word) + BitVec.ofNat 32 1).toNat 1 = false) := by
  unfold HoldsString HoldsBytes Allowed; decide

theorem denotes_max : Denotes (asciiBytes "2147483647") 2147483647 :=
  ⟨false, asciiBytes "2147483647", by decide, by decide, rfl, by decide⟩

theorem denotes_min : Denotes (asciiBytes "-2147483648") (-2147483648) :=
  ⟨true, asciiBytes "2147483648", by decide, by decide, rfl, by decide⟩

theorem denotes_past : Denotes (asciiBytes "2147483648") 2147483648 :=
  ⟨false, asciiBytes "2147483648", by decide, by decide, rfl, by decide⟩

theorem denotes_empty : ¬ ∃ z, Denotes [] z := by
  rintro ⟨z, neg, ds, hne, _, ht, _⟩
  cases ds with
  | nil => exact hne rfl
  | cons b bs => exact List.cons_ne_nil _ _ (List.append_eq_nil_iff.mp ht.symm).2

/-- The state of service 5 with one line, and of service 6 with one string. -/
def line (t : List Byte) : State := (sys 5 0 0).setInput [t]

def string (t : List Byte) : State := State.withMem (sys 6 0x10010000 0) 0x10010000 t

/-- The ends of the signed range, one past it, and no numeral; for atoi a byte that is not allowed and the end of memory
as well. -/
theorem witness_NumeralServicesParseSignedDecimals :
    (((sys 5 0 0).getX 2).toInt = 5 ∧ (sys 5 0 0).input = [])
      ∧ (((line (asciiBytes "2147483648")).getX 2).toInt = 5
        ∧ (line (asciiBytes "2147483648")).input = asciiBytes "2147483648" :: []
        ∧ Denotes (asciiBytes "2147483648") 2147483648 ∧ ¬ inWord 2147483648)
      ∧ (((line []).getX 2).toInt = 5 ∧ (line []).input = [] :: [] ∧ ¬ ∃ z, Denotes [] z)
      ∧ (((string (asciiBytes "-2147483648")).getX 2).toInt = 6
        ∧ HoldsString (string (asciiBytes "-2147483648")) ((string (asciiBytes "-2147483648")).getX 4) (asciiBytes "-2147483648")
        ∧ Denotes (asciiBytes "-2147483648") (-2147483648) ∧ inWord (-2147483648))
      ∧ (((string (asciiBytes "2147483648")).getX 2).toInt = 6
        ∧ HoldsString (string (asciiBytes "2147483648")) ((string (asciiBytes "2147483648")).getX 4) (asciiBytes "2147483648")
        ∧ Denotes (asciiBytes "2147483648") 2147483648 ∧ ¬ inWord 2147483648)
      ∧ (Denotes (asciiBytes "2147483647") 2147483647 ∧ inWord 2147483647)
      ∧ (((string []).getX 2).toInt = 6 ∧ HoldsString (string []) ((string []).getX 4) [] ∧ ¬ ∃ z, Denotes [] z)
      ∧ (HoldsBytes (string [0x37, 0x08]) ((string [0x37, 0x08]).getX 4) ([0x37] ++ [0x08]) ∧ Allowed 0x37 ∧ ¬ Allowed 0x08)
      ∧ (HoldsBytes (State.withMem (sys 6 0x7FFFFFFF 0) 0x7FFFFFFF [0x37]) 0x7FFFFFFF [0x37]
        ∧ (sys 6 0x7FFFFFFF 0).readAdmitted ((0x7FFFFFFF : Word) + BitVec.ofNat 32 1).toNat 1 = false) := by
  refine ⟨by decide, ⟨by decide, rfl, denotes_past, ?_⟩, ⟨by decide, rfl, denotes_empty⟩, ⟨by decide, ?_, denotes_min, ?_⟩,
    ⟨by decide, ?_, denotes_past, ?_⟩, ⟨denotes_max, ?_⟩, ⟨by decide, ?_, denotes_empty⟩, ?_, ?_⟩
  · unfold inWord; decide
  · unfold HoldsString HoldsBytes; decide
  · unfold inWord; decide
  · unfold HoldsString HoldsBytes; decide
  · unfold inWord; decide
  · unfold inWord; decide
  · unfold HoldsString HoldsBytes; decide
  · unfold HoldsBytes Allowed; decide
  · unfold HoldsBytes; decide

/-- A line of three bytes for service 8. -/
def lineFor (addr n : Word) : State := (sys 8 addr n).setInput [[1, 2, 3]]

/-- `$a1` = 0; 1 with no line; 3 with three bytes, all writable; the same across the end of memory. -/
theorem witness_ReadStringStoresTheLineAndATerminator :
    (((sys 8 0 0).getX 2).toInt = 8 ∧ ((sys 8 0 0).getX 5).toInt < 1)
      ∧ (((sys 8 0 1).getX 2).toInt = 8 ∧ 1 ≤ ((sys 8 0 1).getX 5).toInt ∧ (sys 8 0 1).input = [])
      ∧ (((lineFor 0x7FFFFFFD 3).getX 2).toInt = 8 ∧ 1 ≤ ((lineFor 0x7FFFFFFD 3).getX 5).toInt
        ∧ (lineFor 0x7FFFFFFD 3).input = [1, 2, 3] :: []
        ∧ 2 = min ([1, 2, 3] : List Byte).length (((lineFor 0x7FFFFFFD 3).getX 5).toInt - 1).toNat
        ∧ ∀ i ≤ 2, (lineFor 0x7FFFFFFD 3).writeAdmitted ((lineFor 0x7FFFFFFD 3).getX 4 + BitVec.ofNat 32 i).toNat 1 = true)
      ∧ (((lineFor 0x7FFFFFFE 3).getX 2).toInt = 8 ∧ 1 ≤ ((lineFor 0x7FFFFFFE 3).getX 5).toInt
        ∧ (lineFor 0x7FFFFFFE 3).input = [1, 2, 3] :: []
        ∧ 2 = min ([1, 2, 3] : List Byte).length (((lineFor 0x7FFFFFFE 3).getX 5).toInt - 1).toNat
        ∧ ∃ i ≤ 2, (lineFor 0x7FFFFFFE 3).writeAdmitted ((lineFor 0x7FFFFFFE 3).getX 4 + BitVec.ofNat 32 i).toNat 1 = false) :=
  ⟨by decide, by decide, by decide, by decide, by decide, by decide, by decide, 2, by decide⟩

/-- The largest request that fits, and one more. -/
theorem witness_SbrkReturnsTheOldHeapPointer :
    (((sys 9 0 0).getX 2).toInt = 9 ∧ (sys 9 0 0).heapPtr.toNat % 4 = 0) ∧ ((sys 9 0x80000000 0).getX 4).toInt < 0
      ∧ (0 ≤ ((sys 9 0x6FFBEFFC 0).getX 4).toInt ∧ 0x7FFFEFFC % 4 = 0
        ∧ (sys 9 0x6FFBEFFC 0).heapPtr.toNat + ((sys 9 0x6FFBEFFC 0).getX 4).toNat ≤ 0x7FFFEFFC
        ∧ 0x7FFFEFFC < (sys 9 0x6FFBEFFC 0).heapPtr.toNat + ((sys 9 0x6FFBEFFC 0).getX 4).toNat + 4
        ∧ 0x7FFFEFFC ≤ base.cfg.initialSp.toNat)
      ∧ (0x7FFFF000 % 4 = 0 ∧ (sys 9 0x6FFBEFFD 0).heapPtr.toNat + ((sys 9 0x6FFBEFFD 0).getX 4).toNat ≤ 0x7FFFF000
        ∧ 0x7FFFF000 < (sys 9 0x6FFBEFFD 0).heapPtr.toNat + ((sys 9 0x6FFBEFFD 0).getX 4).toNat + 4
        ∧ base.cfg.initialSp.toNat < 0x7FFFF000) := by decide

theorem witness_ExitServicesHaltTheRun :
    (((sys 10 0 0).getX 2).toInt = 10 ∧ ((sys 17 0 0).getX 2).toInt = 17) ∧ (1 ≤ (sys 10 0 0).icount ∧ (sys 10 0 0).fault = none)
      ∧ (base.cfg.showIcount = true ∧ { Cfg.example with showIcount := false }.showIcount = false) := by decide

theorem witness_DumpServicesRecordWhatTheyShow :
    (((sys 30 0 0).getX 2).toInt = 30 ∧ ((sys 31 0 0).getX 2).toInt = 31 ∧ ((sys 32 0 0).getX 2).toInt = 32)
      ∧ (∀ k < ((sys 30 0x7FFFFFFE 2).getX 5).toNat, base.readAdmitted ((0x7FFFFFFE : Word) + BitVec.ofNat 32 k).toNat 1 = true)
      ∧ ∃ k < ((sys 30 0x7FFFFFFE 3).getX 5).toNat, base.readAdmitted ((0x7FFFFFFE : Word) + BitVec.ofNat 32 k).toNat 1 = false :=
  ⟨by decide, by decide, 2, by decide⟩

theorem witness_RandomServicesUseOnlyTheGenerator :
    (((sys 40 0 0).getX 2).toInt = 40 ∧ ((sys 41 0 0).getX 2).toInt = 41 ∧ ((sys 42 0 0).getX 2).toInt = 42)
      ∧ (((sys 42 0 0xFFFFFFFF).getX 5).toInt < 0 ∧ 0 ≤ ((sys 42 0 0).getX 5).toInt ∧ 0 ≤ ((sys 42 0 0x7FFFFFFF).getX 5).toInt)
      ∧ ∃ s s' t t' u u' : State, s ≠ s' ∧ (s.getX 2).toInt = 40 ∧ (s'.getX 2).toInt = 40 ∧ s.getX 4 = s'.getX 4
        ∧ exec .syscall s = .next t ∧ exec .syscall s' = .next t' ∧ t.cfg.randDest = t'.cfg.randDest
        ∧ exec .syscall (t.setX 2 41) = .next u ∧ exec .syscall (t'.setX 2 41) = .next u' :=
  ⟨by decide, by decide, sys 40 7 0, sys 40 7 1, _, _, _, _, by decide, by decide, by decide, by decide, rfl, rfl, rfl, rfl, rfl⟩

theorem witness_HostRegisterAccessReadsBackWhatItWrites :
    RegName.cc 7 ≠ .x 0 ∧ RegName.x 31 ≠ .x 0 ∧ RegName.cc 6 ≠ .cc 7 ∧ (30 : FReg).val % 2 = 0 ∧ (31 : FReg).val % 2 = 1 := by
  decide

end Sys2Proof.Tests
end

/-! PROOFS. The first state of a launch that boots (spec/00_scope.md R4, 10_state.md R27, 70_reset_and_hazards.md R330):
its bounds and its memory, then the statements of the family 00_scope.md. -/

namespace Sys2Proof.Machine

/-! ### What a well-formed configuration gives (R4, 20_memory.md R42) -/

theorem multipleOf4_iff (n : Nat) : multipleOf4 n = true ↔ n % 4 = 0 := by simp [multipleOf4]

/-- The heap starts aligned and no higher than the stack pointer. -/
theorem heapBase_of_wellFormed {c : Cfg} {n : Nat} (h : c.wellFormed n = true) :
    c.heapBase.toNat % 4 = 0 ∧ c.heapBase.toNat ≤ c.initialSp.toNat := by
  simp only [Cfg.wellFormed, Bool.and_eq_true, multipleOf4_iff, decide_eq_true_eq] at h
  simp only [h, and_self]

/-- The three ranges that a loader may write end inside the address space. -/
theorem rangesEnd_of_wellFormed {c : Cfg} {n : Nat} (h : c.wellFormed n = true) :
    c.textBase + 4 * n ≤ 2 ^ 32 ∧ c.dataMax ≤ 2 ^ 32 ∧ c.stackTop ≤ 2 ^ 32 := by
  simp only [Cfg.wellFormed, Bool.and_eq_true, decide_eq_true_eq] at h
  omega

/-! ### The memory of a launch -/

/-- An admitted image ends inside the address space (20_memory.md R56). -/
theorem Launch.imageEnd_of_admitted {l : Launch} {image : Image} (hc : l.cfg.wellFormed l.text.length = true)
    (h : l.imageAdmitted image = true) : image.addr + image.bytes.length ≤ 2 ^ 32 := by
  obtain ⟨htext, hdata, hstack⟩ := rangesEnd_of_wellFormed hc
  simp only [Launch.imageAdmitted, Cfg.inStore, Bool.and_eq_true, Bool.or_eq_true, within_iff] at h
  obtain ⟨-, h | h | h⟩ := h <;> omega

/-- Images that end at or below a bound list no address at or above it. -/
theorem below_images {b : Nat} (images : List Image) : ∀ {m : Memory}, (∀ c ∈ m, c.1 < b) →
    (∀ image ∈ images, image.addr + image.bytes.length ≤ b) →
    ∀ c ∈ images.foldl (fun m image => m.setAll image.addr image.bytes) m, c.1 < b := by
  induction images with
  | nil => intro m hm _; exact hm
  | cons i images ih =>
    intro m hm hi
    rw [List.forall_mem_cons] at hi
    exact ih (Memory.below_setAll i.bytes i.addr hm hi.1) hi.2

/-- What the configuration, the text and the images of a well-formed launch satisfy. -/
theorem Launch.wellFormed_iff (l : Launch) : l.wellFormed = true ↔
    l.cfg.wellFormed l.text.length = true ∧ (∀ image ∈ l.images, l.imageAdmitted image = true)
      ∧ l.textImageAgrees = true := by
  simp [Launch.wellFormed, and_assoc]

/-- The first state of a well-formed launch satisfies the invariant. -/
theorem Launch.inv_ready {l : Launch} (h : l.wellFormed = true) : l.ready.Inv := by
  obtain ⟨hcfg, himages, -⟩ := l.wellFormed_iff.mp h
  obtain ⟨halign, hsp⟩ := heapBase_of_wellFormed hcfg
  exact
    { memory := wf_images l.images Memory.wf_nil
      space := below_images l.images (by simp) fun i hi => imageEnd_of_admitted hcfg (himages i hi)
      heapAlign := halign
      heapLow := le_rfl
      heapHigh := hsp
      faulted := by simp [Launch.ready, State.initial]
      halted := by simp [Launch.ready, State.initial] }

/-- Settles O5: a launch that boots is well formed, and its images lie in ranges that end inside the address space. -/
theorem aLaunchSatisfiesTheInvariant : Obligations.ALaunchSatisfiesTheInvariant := by
  intro l s h
  obtain ⟨hw, -, rfl⟩ := Launch.boot_ok h
  exact Launch.inv_ready hw

/-- Settles O1: a launch that boots starts in `Launch.ready`, whose fields are those of the configuration. -/
theorem aLaunchStartsAtItsConfiguredValues : Obligations.ALaunchStartsAtItsConfiguredValues := by
  intro l s h
  obtain ⟨-, -, rfl⟩ := Launch.boot_ok h
  have hflags (k : CC) : l.ready.getCC k = false := by simp [Launch.ready, State.initial, State.getCC]
  exact ⟨rfl, fun _ => rfl, fun _ => rfl, rfl, rfl, hflags, rfl, rfl, rfl, rfl, rfl, rfl, rfl⟩

end Sys2Proof.Machine

/-! PROOFS. What a step keeps and what an instruction leaves alone (spec/10_state.md): the invariant, then one frame
lemma for each part of the state, each a case analysis of `Effect`; then the statements of the family 10_state.md. -/

namespace Sys2Proof.Machine

/-! ### What a step that does not stop comes to -/

/-- A step that does not stop is a fetch fault, a reserved word, or an effect of an instruction on the advanced
state. -/
theorem step_next {s t : State} (h : step s = .next t) : (s.run = .ready ∨ s.run = .running)
    ∧ ((∃ k, t = (s.setRun .running).takeFaultAt s.pc ⟨k, some s.pc⟩)
      ∨ (∃ w, t = (s.setRun .running).advance.takeReserved w)
      ∨ ∃ i, Effect i (s.setRun .running).advance t) := by
  rcases step_cases s with ⟨_, hstop⟩ | ⟨hr, ⟨k, hk⟩ | ⟨w, hw⟩ | hill | ⟨i, _, hi⟩⟩
  · cases h.symm.trans hstop
  · cases h.symm.trans hk
    exact ⟨hr, .inl ⟨k, rfl⟩⟩
  · cases h.symm.trans hw
    exact ⟨hr, .inr (.inl ⟨w, rfl⟩)⟩
  · cases h.symm.trans hill
  · exact ⟨hr, .inr (.inr ⟨i, exec_effect (hi.symm.trans h)⟩)⟩

/-! ### The invariant (R20, R22, R23) -/

namespace State.Inv

variable {s t : State}

theorem exitCode_none (h : s.Inv) (hr : s.run ≠ .halted) : s.exitCode = none := by
  rwa [Ne, h.halted, Option.not_isSome_iff_eq_none] at hr

theorem fault_none (h : s.Inv) (hr : s.run ≠ .faulted) : s.fault = none := by
  rwa [Ne, h.faulted, Option.not_isSome_iff_eq_none] at hr

/-- A change of `run`, with the fault record and the exit code the new run state asks for. -/
theorem runChange (h : s.Inv) (hf : t.run = .faulted ↔ t.fault.isSome) (he : t.run = .halted ↔ t.exitCode.isSome)
    (hm : t.mem = s.mem := by simp) (hh : t.heapPtr = s.heapPtr := by simp) (hc : t.cfg = s.cfg := by simp) :
    t.Inv where
  memory := hm ▸ h.memory
  space := hm ▸ h.space
  heapAlign := hh ▸ h.heapAlign
  heapLow := hh ▸ hc ▸ h.heapLow
  heapHigh := hh ▸ hc ▸ h.heapHigh
  faulted := hf
  halted := he

/-- The invariant speaks of six fields only. -/
theorem congr (h : s.Inv) (hm : t.mem = s.mem := by simp) (hh : t.heapPtr = s.heapPtr := by simp)
    (hc : t.cfg = s.cfg := by simp) (hr : t.run = s.run := by simp) (hf : t.fault = s.fault := by simp)
    (he : t.exitCode = s.exitCode := by simp) : t.Inv :=
  h.runChange (hr ▸ hf ▸ h.faulted) (hr ▸ he ▸ h.halted) hm hh hc

theorem setRun_running (h : s.Inv) (hr : s.run = .ready ∨ s.run = .running) : (s.setRun .running).Inv := by
  have hf : s.fault = none := h.fault_none (by rcases hr with hr | hr <;> simp [hr])
  have he : s.exitCode = none := h.exitCode_none (by rcases hr with hr | hr <;> simp [hr])
  exact h.runChange (by simp [hf]) (by simp [he])

/-- Taking a fault sets the record (60_exceptions.md R315). -/
theorem enterFaulted (h : s.Inv) (hr : s.run = .running) (r : FaultRecord) : (s.enterFaulted r).Inv :=
  h.runChange (by simp [State.enterFaulted]) (by simp [State.enterFaulted, h.exitCode_none (by simp [hr])])

theorem halt (h : s.Inv) (hr : s.run = .running) (code : Int) : (s.halt code).Inv :=
  h.runChange (by simp [h.fault_none (by simp [hr])]) (by simp)

theorem setMem {m : Memory} (h : s.Inv) (hw : Memory.wf m = true) (hb : ∀ c ∈ m, c.1 < 2 ^ 32) :
    ({ s with mem := m } : State).Inv :=
  { h with memory := hw, space := hb }

theorem putBytes {a : Nat} {bs : List Byte} (h : s.Inv) (ha : s.writeAdmitted a bs.length = true) :
    (s.putBytes a bs).Inv :=
  h.setMem (Memory.wf_setAll bs a h.memory) (Memory.below_setAll bs a h.space (lt_of_writeAdmitted ha))

theorem putEach (h : s.Inv) (a : Word) (bs : List Byte) : (s.putEach a bs).Inv := by
  have hw := wf_putEach bs a h.memory
  have hb := below_putEach bs a h.space
  obtain ⟨m, hm⟩ := State.putEach_eq bs s a
  rw [hm] at hw hb ⊢
  exact h.setMem hw hb

theorem setHeapPtr {p : Word} (h : s.Inv) (ha : p.toNat % 4 = 0) (hl : s.heapPtr.toNat ≤ p.toNat)
    (hh : p.toNat ≤ s.cfg.initialSp.toNat) : (s.setHeapPtr p).Inv :=
  { h with heapAlign := ha, heapLow := h.heapLow.trans hl, heapHigh := hh }

end State.Inv

/-- The heap pointer `sbrk` gives is aligned, and between the old one and `initial_sp` (20_memory.md R53). -/
theorem sbrk_bounds {s : State} {n : Word} {p : Word × Word} (h : s.sbrk n = .ok p) :
    p.2.toNat % 4 = 0 ∧ s.heapPtr.toNat ≤ p.2.toNat ∧ p.2.toNat ≤ s.cfg.initialSp.toNat := by
  unfold State.sbrk at h
  split at h
  · cases h
  · split at h
    · rename_i hle
      cases h
      have := s.cfg.initialSp.isLt
      simp only [BitVec.toNat_ofNat]
      omega
    · cases h

theorem ServiceEffect.inv {s t : State} (e : ServiceEffect s t) (h : s.Inv) (hr : s.run = .running) : t.Inv := by
  cases e with
  | raises r => exact h.enterFaulted hr _
  | rejects l ls r _ => exact (h.congr (t := s.setInput ls)).enterFaulted (by simp [hr]) _
  | stores l ls => exact (h.congr (t := s.setInput ls)).putEach _ _
  | grows p _ hp =>
    obtain ⟨ha, hl, hh⟩ := sbrk_bounds hp
    exact (h.setHeapPtr ha hl hh).congr
  | exits es code => exact (h.congr (t := s.setOut (s.out ++ es))).halt (by simp [hr]) code
  | _ => exact h.congr

theorem Effect.inv {i : Instr} {s t : State} (e : Effect i s t) (h : s.Inv) (hr : s.run = .running) : t.Inv := by
  cases e with
  | raises r => exact h.enterFaulted hr _
  | stores a bs ha _ => exact h.putBytes ha
  | service _ _ hs => exact hs.inv h hr
  | _ => exact h.congr

/-- Settles O4: the fetch sets `run` to running and keeps the invariant; from there a fault sets the record and every
effect of an instruction keeps the invariant. -/
theorem everyStepKeepsTheInvariant : Obligations.EveryStepKeepsTheInvariant := by
  intro s t h hs
  obtain ⟨hr, hcases⟩ := step_next hs
  have h0 := h.setRun_running hr
  have h1 : (s.setRun .running).advance.Inv := h0.congr
  rcases hcases with ⟨k, rfl⟩ | ⟨w, rfl⟩ | ⟨i, e⟩
  · exact h0.enterFaulted (by simp) _
  · exact h1.enterFaulted (by simp) _
  · exact e.inv h1 (by simp)

/-- Settles O3: reset lists no memory, and its heap pointer is the base of the example configuration. -/
theorem resetSatisfiesTheInvariant : Obligations.ResetSatisfiesTheInvariant where
  memory := Memory.wf_nil
  space := by simp [State.reset, State.initial]
  heapAlign := by decide
  heapLow := by decide
  heapHigh := by decide
  faulted := by decide
  halted := by decide

/-! ### What a service and an instruction leave alone -/

/-- No service touches a floating-point register, hi, lo, pc, a flag, icount, the launch parameters, the file table or
the count of free values. -/
theorem ServiceEffect.onlyChanges {s t : State} (e : ServiceEffect s t) :
    OnlyChanges [.x, .memory, .heap, .run, .out, .input, .gen] s t := by
  intro p hp
  cases p with
  | x | memory | heap | run | out | input | gen => simp at hp
  | _ => cases e <;> simp [Part.same]

namespace Effect

variable {i : Instr} {s t : State}

theorem icount_eq (e : Effect i s t) : t.icount = s.icount := by
  cases e with
  | service _ _ hs => exact hs.onlyChanges .count (by decide)
  | _ => simp

theorem pc_eq (e : Effect i s t) (hi : i.transfers = false) : t.pc = s.pc := by
  cases e with
  | jumps _ ht | links _ _ _ ht _ => simp [hi] at ht
  | service _ _ hs => exact hs.onlyChanges .pc (by decide)
  | _ => simp

theorem hiLo_eq (e : Effect i s t) (hi : i.writesHiLo = false) : t.hi = s.hi ∧ t.lo = s.lo := by
  cases e with
  | setsHiLo _ hw | divides _ _ hw => simp [hi] at hw
  | service _ _ hs => exact hs.onlyChanges .hiLo (by decide)
  | _ => simp

theorem getCC_eq (e : Effect i s t) {k : CC} (hk : i.flagDest ≠ some k) : t.getCC k = s.getCC k := by
  cases e with
  | setsFlag j b hj =>
    have : k ≠ j := fun hkj => hk (hkj ▸ hj)
    simp [State.getCC_setCC, this]
  | service _ _ hs => exact hs.onlyChanges .flags (by decide) k
  | _ => simp

theorem getF_eq (e : Effect i s t) {r : FReg} (hr : r ∉ i.floatDests) : t.getF r = s.getF r := by
  cases e with
  | setsF d q v hq => simp [State.getF_setF, ne_of_mem_of_not_mem hq hr |>.symm]
  | setsFD d q v hq hq' =>
    simp [State.getF_setFD, (ne_of_mem_of_not_mem hq hr).symm, (ne_of_mem_of_not_mem hq' hr).symm]
  | service _ _ hs => exact hs.onlyChanges .f (by decide) r
  | _ => simp

theorem launch_eq (e : Effect i s t) : t.cfg = s.cfg ∧ t.text = s.text := by
  cases e with
  | service _ _ hs => exact hs.onlyChanges .launch (by decide)
  | _ => simp

theorem files_eq (e : Effect i s t) : t.files = s.files := by
  cases e with
  | service _ _ hs => exact hs.onlyChanges .files (by decide)
  | _ => simp

end Effect

theorem getX_setX_of_not_mem {s : State} {ds : List Reg} {q r : Reg} (v : Word) (hq : q ∈ ds) (hr : r ∉ ds) :
    (s.setX q v).getX r = s.getX r := by
  simp [State.getX_setX, (ne_of_mem_of_not_mem hq hr).symm]

/-- A service writes no integer register but the one R271 names. -/
theorem ServiceEffect.getX_eq {s t : State} (e : ServiceEffect s t) {r : Reg} (hr : r ∉ s.serviceDest) :
    t.getX r = s.getX r := by
  cases e with
  | reads l ls v h5 _ => simpa using getX_setX_of_not_mem (s := s.setInput ls) v (by simp [serviceDest_v0 (.inl h5)]) hr
  | parses v h6 => exact getX_setX_of_not_mem v (by simp [serviceDest_v0 (.inr (.inl h6))]) hr
  | grows p h9 _ =>
    simpa using getX_setX_of_not_mem (s := s.setHeapPtr p.2) p.1 (by simp [serviceDest_v0 (.inr (.inr h9))]) hr
  | draws g v h => simpa using getX_setX_of_not_mem (s := s.setGen g) v (by simp [serviceDest_rand h]) hr
  | _ => simp

theorem Effect.getX_eq {i : Instr} {s t : State} (e : Effect i s t) {r : Reg} (hr : r ∉ i.intDests s) :
    t.getX r = s.getX r := by
  cases e with
  | setsX q v hq => exact getX_setX_of_not_mem v hq hr
  | links q v a _ hq => simpa using getX_setX_of_not_mem v hq hr
  | service _ hi hs => subst hi; exact hs.getX_eq hr
  | _ => simp

theorem ServiceEffect.heapPtr_eq {s t : State} (e : ServiceEffect s t) :
    t.heapPtr = s.heapPtr ∨ (s.getX 2).toInt = 9 := by
  cases e with
  | grows p h9 _ => exact .inr h9
  | _ => simp

theorem ServiceEffect.gen_eq {s t : State} (e : ServiceEffect s t) :
    t.gen = s.gen ∨ (s.getX 2).toInt = 40 ∨ (s.getX 2).toInt = 41 ∨ (s.getX 2).toInt = 42 := by
  cases e with
  | seeds g h40 => exact .inr (.inl h40)
  | draws g v h => exact .inr (.inr h)
  | _ => simp

/-- What only a service reaches: the heap pointer, the generator and the console. -/
theorem Effect.host_eq {i : Instr} {s t : State} (e : Effect i s t) :
    (t.heapPtr = s.heapPtr ∧ t.gen = s.gen ∧ t.out = s.out ∧ t.input = s.input)
      ∨ i = .syscall ∧ ServiceEffect s t := by
  cases e with
  | service _ hi hs => exact .inr ⟨hi, hs⟩
  | _ => simp

/-- A service adds output, or consumes a line of input, never both (47_syscall.md R272). -/
theorem ServiceEffect.console {s t : State} (e : ServiceEffect s t) :
    (∃ es, t.out = s.out ++ es) ∧ t.input = s.input ∨ t.out = s.out ∧ ∃ line, s.input = line :: t.input := by
  cases e with
  | outputs es | exits es _ => exact .inl ⟨⟨es, by simp⟩, by simp⟩
  | rejects l ls _ hl | reads l ls _ _ hl | stores l ls _ hl => exact .inr ⟨by simp, l, by simpa using hl⟩
  | _ => exact .inl ⟨⟨[], by simp⟩, by simp⟩

/-! ### The frame statements -/

/-- Settles O13: the count of a step is that of the advance, before the instruction or the reserved word's fault. -/
theorem onlyTransfersWritePcAndEachFetchCountsOnce : Obligations.OnlyTransfersWritePcAndEachFetchCountsOnce := by
  refine ⟨fun i s t h => ⟨(exec_effect h).icount_eq, (exec_effect h).pc_eq⟩, fun s t hs => ?_⟩
  rcases (step_next hs).2 with ⟨k, rfl⟩ | ⟨w, rfl⟩ | ⟨i, e⟩
  · exact .inr ⟨rfl, rfl, rfl⟩
  · exact .inl rfl
  · exact .inl e.icount_eq

/-- Settles O14, by the effects an instruction can have on hi, lo and the flags. -/
theorem hiLoAndFlagsHaveTheirOnlyWriters : Obligations.HiLoAndFlagsHaveTheirOnlyWriters :=
  fun _ _ _ h => ⟨(exec_effect h).hiLo_eq, fun _ => (exec_effect h).getCC_eq⟩

/-- Settles O15: every write of an integer register is to one in `intDests`, for a service to its `serviceDest`. -/
theorem onlyNamedIntegerRegistersChange : Obligations.OnlyNamedIntegerRegistersChange :=
  fun _ _ t h => ⟨fun _ => (exec_effect h).getX_eq, t.getX_zero⟩

/-- Settles O16: every write of a floating-point register or pair is to registers in `floatDests`. -/
theorem onlyNamedFloatRegistersChange : Obligations.OnlyNamedFloatRegistersChange :=
  fun _ _ _ h _ => (exec_effect h).getF_eq

/-- Settles O18: only a service reaches the heap pointer and the generator, and each service by its number. -/
theorem launchParametersHeapAndHostStateHaveTheirOnlyWriters :
    Obligations.LaunchParametersHeapAndHostStateHaveTheirOnlyWriters := by
  intro i s t h
  have e := exec_effect h
  obtain ⟨hcfg, htext⟩ := e.launch_eq
  refine ⟨hcfg, htext, e.files_eq, ?_⟩
  rcases e.host_eq with ⟨hheap, hgen, _⟩ | ⟨hi, hs⟩
  · exact ⟨fun hne => absurd hheap hne, fun hne => absurd hgen hne⟩
  · exact ⟨fun hne => ⟨hi, hs.heapPtr_eq.resolve_left hne⟩, fun hne => ⟨hi, hs.gen_eq.resolve_left hne⟩⟩

/-- Settles O19: only a service reaches the console, and it either appends events or consumes a line. -/
theorem theConsoleIsReachedOnlyBySyscall : Obligations.TheConsoleIsReachedOnlyBySyscall := by
  intro i s t h
  rcases (exec_effect h).host_eq with ⟨_, _, hout, hin⟩ | ⟨hi, hs⟩
  · exact ⟨fun _ => ⟨hout, hin⟩, .inl ⟨⟨[], by simp [hout]⟩, hin⟩⟩
  · exact ⟨fun hne => absurd hi hne, hs.console⟩

/-! ### The value of stored bytes (20_memory.md R44) -/

theorem composeLow_splitLow (n : Nat) : ∀ v, composeLow (splitLow n v) = v % 256 ^ n := by
  induction n with
  | zero => intro v; simp [splitLow, composeLow, Nat.mod_one]
  | succ n ih =>
    intro v
    calc (BitVec.ofNat 8 v).toNat + 256 * composeLow (splitLow n (v / 256))
        = v % 256 + 256 * (v / 256 % 256 ^ n) := by rw [ih, BitVec.toNat_ofNat]
      _ = v % 256 ^ (n + 1) := by rw [pow_succ', Nat.mod_mul]

/-- The bytes of a value have its value, in either byte order. -/
theorem compose_split (e : Endian) (n v : Nat) : compose e (split e n v) = v % 256 ^ n := by
  cases e <;> simp [compose, split, composeLow_splitLow]

/-- Where the bytes of `v` stand, `v` is read. -/
theorem valueOf_of_byteAt {s : State} {a n v : Nat} (h : ∀ k < n, s.byteAt (a + k) = byteOf s.cfg.endian n v k) :
    s.valueOf a n = v % 256 ^ n := by
  have hbytes : s.bytesAt a n = split s.cfg.endian n v := by
    rw [bytesAt_eq_map]
    refine List.ext_getElem (by simp) fun k hk hk' => ?_
    have hkn : k < n := by simpa using hk
    rw [List.getElem_map, List.getElem_range, h k hkn, ← getD_split _ _ _ _ hkn, List.getD_eq_getElem _ _ hk']
  rw [← compose_bytesAt, hbytes, compose_split]

/-! ### The bytes of the text (R25, 20_memory.md R45) -/

/-- No byte of the text lies in a range that a store reaches. -/
theorem not_inStore_of_text {c : Cfg} {n a : Nat} (h : c.wellFormed n = true) (hlo : c.textBase ≤ a)
    (hhi : a < c.textBase + 4 * n) : Cfg.inStore c a 1 = false := by
  simp only [Cfg.wellFormed, disjointRanges, Bool.and_eq_true, Bool.or_eq_true, decide_eq_true_eq] at h
  simp only [Cfg.inStore, within, Bool.or_eq_false_iff, Bool.and_eq_false_iff, decide_eq_false_iff_not]
  omega

/-- A byte of a level-2 slot is the byte of its word. -/
theorem textByte_word {s : State} {i k : Nat} {w : Word} (h : s.text[i]? = some (.word w)) (hk : k < 4) :
    s.textByte (s.cfg.textBase + 4 * i + k) = some (byteOf s.cfg.endian 4 w.toNat k) := by
  obtain ⟨hi, -⟩ := List.getElem?_eq_some_iff.mp h
  have hin : s.inText (s.cfg.textBase + 4 * i + k) 1 = true := by
    rw [State.inText, State.textEnd, within_iff]
    omega
  have hdiv : (s.cfg.textBase + 4 * i + k - s.cfg.textBase) / 4 = i := by omega
  have hmod : (s.cfg.textBase + 4 * i + k - s.cfg.textBase) % 4 = k := by omega
  rw [State.textByte, if_pos hin, hdiv, hmod, h, ← getD_split _ _ _ _ hk,
    List.getD_eq_getElem _ _ (by simpa using hk)]
  exact List.getElem?_eq_getElem _

/-- No service stores to a byte outside the data range and the dynamic region. -/
theorem ServiceEffect.byteAt_eq {s t : State} (e : ServiceEffect s t) {a : Nat} (ha : Cfg.inStore s.cfg a 1 = false) :
    t.byteAt a = s.byteAt a := by
  cases e with
  | stores l ls _ _ _ hw =>
    rw [byteAt_putEach_other, State.setInput_byteAt]
    rintro k hk rfl
    have := inStore_of_writeAdmitted (writeAdmitted_of_firstUnwritable hw k hk) le_rfl (Nat.lt_succ_self _)
    exact absurd this (by simpa using ha)
  | _ => simp

/-- No instruction does. -/
theorem Effect.byteAt_eq {i : Instr} {s t : State} (e : Effect i s t) {a : Nat} (ha : Cfg.inStore s.cfg a 1 = false) :
    t.byteAt a = s.byteAt a := by
  cases e with
  | stores b bs hw _ =>
    rw [byteAt_putBytes hw, if_neg]
    rintro ⟨hlo, hhi⟩
    simp [inStore_of_writeAdmitted hw hlo hhi] at ha
  | service _ _ hs => exact hs.byteAt_eq ha
  | _ => simp

/-- A level-2 slot reads as its word. -/
theorem valueOf_word {s : State} {i : Nat} {w : Word} (hwf : s.cfg.wellFormed s.text.length = true)
    (hw : s.text[i]? = some (.word w)) : s.valueOf (s.cfg.textBase + 4 * i) 4 = w.toNat := by
  obtain ⟨hi, -⟩ := List.getElem?_eq_some_iff.mp hw
  have hbyte : ∀ k < 4, s.byteAt (s.cfg.textBase + 4 * i + k) = byteOf s.cfg.endian 4 w.toNat k := by
    intro k hk
    have hout := not_inStore_of_text hwf (a := s.cfg.textBase + 4 * i + k) (by omega) (by omega)
    simp [State.byteAt, hout, textByte_word hw hk]
  rw [valueOf_of_byteAt hbyte]
  exact Nat.mod_eq_of_lt w.isLt

/-- Settles O21: text and storable ranges are disjoint, so a text byte comes from its word and no store reaches it. -/
theorem textBytesAreTheWordsAndNeverChange : Obligations.TextBytesAreTheWordsAndNeverChange := by
  intro s hwf
  refine ⟨fun i w => valueOf_word hwf, fun t hs => ?_⟩
  rcases (step_next hs).2 with ⟨k, rfl⟩ | ⟨w, rfl⟩ | ⟨i, e⟩
  · simp
  · simp
  · refine ⟨by simpa using e.launch_eq.2, fun a hlo hhi => ?_⟩
    simpa using e.byteAt_eq (a := a) (by simpa using not_inStore_of_text hwf hlo hhi)

/-! ### A load after a store (20_memory.md R49) -/

/-- A store that does not fault is aligned and admitted. -/
theorem store_next {s t : State} {ea : Word} {n v : Nat} (h : s.store ea n v = .next t) (ht : t.run ≠ .faulted) :
    ea.toNat % n = 0 ∧ s.writeAdmitted ea.toNat n = true
      ∧ t = s.putBytes ea.toNat (split s.cfg.endian n v) := by
  by_cases ha : ea.toNat % n = 0
  · cases hw : s.writeAdmitted ea.toNat n with
    | true => rw [State.store, memWrite_ok ha hw] at h; cases h; exact ⟨ha, rfl, rfl⟩
    | false => rw [State.store, memWrite_out ha hw] at h; cases h; exact absurd rfl ht
  · rw [State.store, memWrite_misaligned ha] at h; cases h; exact absurd rfl ht

theorem valueOf_of_storesAt {s t : State} {a n v : Nat} (h : StoresAt s t a n v) : t.valueOf a n = v % 256 ^ n := by
  obtain ⟨hbytes, honly⟩ := h
  obtain ⟨hcfg, -⟩ := honly .launch (by decide)
  refine valueOf_of_byteAt fun k hk => ?_
  rw [hbytes, if_pos (by omega), hcfg, Nat.add_sub_cancel_left]

/-- The read of the stored bytes gives the stored value, cut to their number. -/
theorem memRead_of_store {s t : State} {base : Reg} {offset : Int} {n v : Nat}
    (h : s.store (s.ea base offset) n v = .next t) (ht : t.run ≠ .faulted) :
    t.memRead (t.ea base offset) n = .ok (v % 256 ^ n) := by
  obtain ⟨ha, hw, rfl⟩ := store_next h ht
  have hea : (s.putBytes (s.ea base offset).toNat (split s.cfg.endian n v)).ea base offset = s.ea base offset := by
    simp [State.ea]
  rw [hea, memRead_ok ha (by simpa using readAdmitted_of_write hw), valueOf_of_storesAt (storesAt_putBytes hw)]

/-- An aligned load into an integer register, after a store of the same width at the same address. -/
theorem loadInto_of_store {s t : State} {rd base : Reg} {offset : Int} {n v : Nat}
    (h : s.store (s.ea base offset) n v = .next t) (ht : t.run ≠ .faulted) :
    t.loadInto rd (t.ea base offset) n zeroExtend = .next (t.setX rd (BitVec.ofNat 32 (v % 256 ^ n))) := by
  rw [State.loadInto, memRead_of_store h ht]
  rfl

/-- Settles O22: each load is the read of the bytes that the store of the same width put there. -/
theorem aLoadReturnsTheLatestStore : Obligations.ALoadReturnsTheLatestStore := by
  intro s t rt rd base ft fd offset _ ht
  have word (v : Word) : BitVec.ofNat 32 (v.toNat % 256 ^ 4) = v :=
    BitVec.eq_of_toNat_eq (by have := v.isLt; simp only [BitVec.toNat_ofNat]; omega)
  have dword (v : DWord) : BitVec.ofNat 64 (v.toNat % 256 ^ 8) = v :=
    BitVec.eq_of_toNat_eq (by have := v.isLt; simp only [BitVec.toNat_ofNat]; omega)
  refine ⟨fun h => ?byte, fun h => ?half, fun h => ?word, fun h => ?single, fun h => ?double⟩
  case byte => exact completes_next (loadInto_of_store h ht) (writesX_setX ..)
  case half => exact completes_next (loadInto_of_store h ht) (writesX_setX ..)
  case word => exact completes_next (loadInto_of_store h ht) (by rw [word]; exact writesX_setX ..)
  case single =>
    refine completes_next (t := t.setF fd (s.getF ft)) ?_ (writesF_setF ..)
    rw [exec, execLwc1, memRead_of_store h ht, complete_ok, word]
  case double =>
    refine completes_next (t := t.setFD fd (s.getFD ft)) ?_ (writesFD_setFD ..)
    rw [exec, execLdc1, memRead_of_store h ht, complete_ok, dword]

/-! ### Reset, the fetch and the terminal states -/

/-- Settles O2, by evaluation; no byte is listed and no text stands over one, so every byte reads 0. -/
theorem resetHoldsTheExampleConfiguration : Obligations.ResetHoldsTheExampleConfiguration := by
  have hmem (a : Nat) : State.reset.byteAt a = 0 := by
    simp [State.byteAt, State.textByte, State.reset, State.initial, Memory.get, Memory.unlisted]
  exact ⟨rfl, by decide, by decide, rfl, rfl, by decide, hmem, rfl, rfl, rfl, rfl, rfl⟩

/-- In Ready and Running a step sets `run` to running and fetches (70_reset_and_hazards.md R332). -/
theorem fetch_of_active {s : State} (hr : s.run = .ready ∨ s.run = .running) :
    s.fetch = (s.setRun .running).fetchSlot := by
  rcases hr with hr | hr
  · simp only [State.fetch, hr]
  · have : s.setRun .running = s := by rw [State.setRun, ← hr]
    simp only [State.fetch, hr, this]

/-- A fetch inside the text goes to the slot there (20_memory.md R51). -/
theorem fetchSlot_of_slotAt {s : State} {slot : Slot} (halign : s.pc.toNat % 4 = 0)
    (hlo : s.cfg.textBase ≤ s.pc.toNat) (hslot : s.slotAt s.pc = some slot) : s.fetchSlot = s.decodeSlot slot := by
  simp only [State.fetchSlot, halign, hlo, hslot, ne_eq, not_true_eq_false, if_false, if_true]

theorem decodeSlot_run {s : State} {slot : Slot} {i : Instr}
    (h : slot = .record i ∧ i.wellFormed = true ∨ ∃ w, slot = .word w ∧ decode s.pc w = .ok i) :
    s.decodeSlot slot = .run i s.advance := by
  rcases h with ⟨rfl, hi⟩ | ⟨w, rfl, hw⟩
  · simp only [State.decodeSlot, hi, if_true]
  · simp only [State.decodeSlot, hw]

/-- Settles O9: the fetch reaches the slot, and the slot decodes to the instruction. -/
theorem aStepRunsTheDecodedInstruction : Obligations.AStepRunsTheDecodedInstruction := by
  intro s slot i hr halign hlo hslot hdecode
  have hfetch : s.fetch = .run i (s.setRun .running).advance := by
    rw [fetch_of_active hr, fetchSlot_of_slotAt (s := s.setRun .running) halign hlo hslot,
      decodeSlot_run (s := s.setRun .running) hdecode]
  rw [step, hfetch]
  rfl

/-- Settles O11: the fetch stops in both run states. -/
theorem haltedAndFaultedTakeNoStep : Obligations.HaltedAndFaultedTakeNoStep := by
  rintro s (hr | hr) <;> simp [step, State.fetch, hr]

/-! ### Host access to registers (R28) -/

/-- `$zero` is the one register whose host write is discarded. -/
theorem getRegister_setRegister (s : State) (n : RegName) (v : n.Value) (h : n ≠ .x 0) :
    (s.setRegister n v).getRegister n = v := by
  cases n with
  | x r =>
    have hr : r ≠ 0 := fun hr => h (hr ▸ rfl)
    simp [State.setRegister, State.getRegister, State.getX_setX, hr]
  | f r => simp [State.setRegister, State.getRegister, State.getF_setF]
  | cc k => simp [State.setRegister, State.getRegister, State.getCC_setCC]
  | hi | lo | pc => rfl

theorem getRegister_setRegister_other (s : State) (n m : RegName) (v : n.Value) (h : m ≠ n) :
    (s.setRegister n v).getRegister m = s.getRegister m := by
  cases n with
  | x r => cases m <;> simp_all [State.setRegister, State.getRegister, State.getX_setX]
  | f r => cases m <;> simp_all [State.setRegister, State.getRegister, State.getF_setF]
  | cc k => cases m <;> simp_all [State.setRegister, State.getRegister, State.getCC_setCC]
  | pc => cases m <;> simp_all [State.setRegister, State.getRegister]
  | hi =>
    cases m with
    | hi => exact absurd rfl h
    | _ => rfl
  | lo =>
    cases m with
    | lo => exact absurd rfl h
    | _ => rfl

theorem OnlyChanges.mono {ps qs : List Part} {s t : State} (h : OnlyChanges ps s t) (hsub : ps ⊆ qs) :
    OnlyChanges qs s t :=
  fun p hp => h p fun hmem => hp (hsub hmem)

theorem onlyChanges_hiLo (s : State) (h l : Word) : OnlyChanges [.hiLo] s { s with hi := h, lo := l } := by
  intro p hp
  cases p with
  | hiLo => simp at hp
  | x | f | flags | memory => exact fun _ => rfl
  | launch => exact ⟨rfl, rfl⟩
  | run => exact ⟨rfl, rfl, rfl⟩
  | _ => rfl

theorem onlyChanges_setRegister (s : State) (n : RegName) (v : n.Value) :
    OnlyChanges [.x, .f, .hiLo, .pc, .flags] s (s.setRegister n v) := by
  cases n with
  | x r => exact (writesX_setX s r v).2.mono (by simp)
  | f r =>
    intro p hp
    cases p <;> simp_all [Part.same, State.setRegister]
  | hi => exact (onlyChanges_hiLo s v s.lo).mono (by simp)
  | lo => exact (onlyChanges_hiLo s s.hi v).mono (by simp)
  | pc => exact (jumpsTo_setPc s v).2.mono (by simp)
  | cc k => exact (writesFlag_setCC s k v).2.mono (by simp)

/-- Settles O60, by what each register accessor reads after each register write. -/
theorem hostRegisterAccessReadsBackWhatItWrites : Obligations.HostRegisterAccessReadsBackWhatItWrites := by
  intro s d
  refine ⟨fun n v => ⟨getRegister_setRegister s n v, fun m hm => ?_, onlyChanges_setRegister s n v⟩,
    fun r => ⟨fun hr => ?_, fun hr => ?_⟩⟩
  · rcases hm with hm | rfl
    · exact getRegister_setRegister_other s n m v hm
    · rfl
  · exact ⟨s.setFD r d, by simp [State.setWide, evenReg, hr],
      by simp [State.getWide, evenReg, hr, State.getFD_setFD]⟩
  · exact ⟨by simp [State.setWide, evenReg, hr], by simp [State.getWide, evenReg, hr]⟩

end Sys2Proof.Machine

/-! PROOFS. The statements of the family 20_memory.md: what a store reaches, the segment rule of admission, the fetch
faults, and the services that read a numeral or move the heap pointer. -/

namespace Sys2Proof.Machine

/-! ### Changes in sequence -/

theorem Part.same_trans {s t u : State} {p : Part} (h : p.same s t) (h' : p.same t u) : p.same s u := by
  cases p with
  | x | f | flags | memory => exact fun r => (h' r).trans (h r)
  | hiLo | launch => exact ⟨h'.1.trans h.1, h'.2.trans h.2⟩
  | run => exact ⟨h'.1.trans h.1, h'.2.1.trans h.2.1, h'.2.2.trans h.2.2⟩
  | _ => exact Eq.trans h' h

/-- Two changes in sequence change what either of them changes. -/
theorem OnlyChanges.trans {ps qs : List Part} {s t u : State} (h : OnlyChanges ps s t) (h' : OnlyChanges qs t u) :
    OnlyChanges (ps ++ qs) s u := by
  intro p hp
  rw [List.mem_append, not_or] at hp
  exact Part.same_trans (h p hp.1) (h' p hp.2)

theorem onlyChanges_setInput (s : State) (ls : List (List Byte)) : OnlyChanges [.input] s (s.setInput ls) := by
  intro p hp; cases p <;> simp_all [Part.same]

theorem onlyChanges_setHeapPtr (s : State) (a : Word) : OnlyChanges [.heap] s (s.setHeapPtr a) := by
  intro p hp; cases p <;> simp_all [Part.same]

theorem onlyChanges_setRun (s : State) (r : RunState) : OnlyChanges [.run] s (s.setRun r) := by
  intro p hp; cases p <;> simp_all [Part.same]

theorem onlyChanges_advance (s : State) : OnlyChanges [.pc, .count] s s.advance := by
  intro p hp; cases p <;> simp_all [Part.same]

theorem onlyChanges_takeFaultAt (s : State) (a : Word) (r : Raise) : OnlyChanges [.run] s (s.takeFaultAt a r) := by
  intro p hp; cases p <;> simp_all [Part.same]

theorem onlyChanges_takeReserved (s : State) (w : Word) : OnlyChanges [.run] s (s.takeReserved w) := by
  intro p hp; cases p <;> simp_all [Part.same]

/-! ### The bytes a store reaches (R49, R50) -/

theorem length_storedLine (m : Int) (l : List Byte) :
    (storedLine m l).length = min l.length (m - 1).toNat + 1 := by
  simp [storedLine, Nat.min_comm]

/-- A service stores to no byte but those of `storesTo`. -/
theorem ServiceEffect.byteAt_of_not_storesTo {s t : State} (e : ServiceEffect s t) {a : Nat}
    (ha : ¬ Instr.storesTo .syscall s a) : t.byteAt a = s.byteAt a := by
  cases e with
  | stores l ls h8 hl _ _ =>
    rw [byteAt_putEach_other, State.setInput_byteAt]
    rintro k hk rfl
    rw [length_storedLine] at hk
    exact ha ⟨h8, l, ls, hl, k, Nat.le_of_lt_succ hk, rfl⟩
  | _ => simp

theorem Effect.byteAt_of_not_storesTo {i : Instr} {s t : State} (e : Effect i s t) {a : Nat}
    (ha : ¬ i.storesTo s a) : t.byteAt a = s.byteAt a := by
  cases e with
  | stores b bs hw hs =>
    rw [byteAt_putBytes hw, if_neg]
    rintro ⟨hlo, hhi⟩
    exact ha (hs a hlo hhi)
  | service _ hi hs => subst hi; exact hs.byteAt_of_not_storesTo ha
  | _ => simp

/-- Settles O17: the only effects that write memory are a store and service 8, each at bytes of `storesTo`. -/
theorem memoryChangesOnlyWhereStored : Obligations.MemoryChangesOnlyWhereStored :=
  fun _ _ _ h _ => (exec_effect h).byteAt_of_not_storesTo

/-! ### Admission (R42, R43, R48) -/

/-- A range of bytes that is not empty lies in a segment when each of its bytes does. -/
theorem within_iff_forall {lo hi a n : Nat} (hn : 0 < n) :
    within lo hi a n = true ↔ ∀ b, a ≤ b → b < a + n → lo ≤ b ∧ b < hi := by
  rw [within_iff]
  constructor
  · intro h b hlo hhi
    omega
  · intro h
    have hfirst := h a le_rfl (by omega)
    have hlast := h (a + n - 1) (by omega) (by omega)
    omega

theorem inStore_iff_forall {c : Cfg} {a n : Nat} (hn : 0 < n) : Cfg.inStore c a n = true ↔
    (∀ b, a ≤ b → b < a + n → c.dataMin ≤ b ∧ b < c.dataMax)
      ∨ (∀ b, a ≤ b → b < a + n → c.heapBase.toNat ≤ b ∧ b < c.stackTop) := by
  rw [Cfg.inStore, Bool.or_eq_true, within_iff_forall hn, within_iff_forall hn]

/-- Every segment ends at or below `mmio_base`. -/
theorem readAdmitted_below_mmio {s : State} {a n : Nat} (hwf : s.cfg.wellFormed s.text.length = true)
    (h : s.readAdmitted a n = true) : a + n ≤ s.cfg.mmioBase := by
  simp only [Cfg.wellFormed, Bool.and_eq_true, decide_eq_true_eq] at hwf
  simp only [State.readAdmitted, State.inText, State.textEnd, Cfg.inStore, Bool.and_eq_true, Bool.or_eq_true,
    within_iff] at h
  omega

/-- Settles O20: a range lies in a segment when its first and its last byte do, every segment ends below `mmio_base`,
and no byte of the text is storable. -/
theorem admissionIsTheSegmentRule : Obligations.AdmissionIsTheSegmentRule := by
  intro s a n hn
  refine ⟨?read, ?write, fun hwf => ⟨fun hmmio => ?mmio, fun b hlo hhi htext htext' => ?text⟩⟩
  case read =>
    rw [State.readAdmitted, Bool.and_eq_true, decide_eq_true_eq, Bool.or_eq_true, State.inText, within_iff_forall hn,
      inStore_iff_forall hn, State.textEnd]
  case write => rw [State.writeAdmitted, Bool.and_eq_true, decide_eq_true_eq, inStore_iff_forall hn]
  case mmio =>
    have hread : s.readAdmitted a n ≠ true := fun h => absurd (readAdmitted_below_mmio hwf h) (by omega)
    exact ⟨by simpa using hread, by simpa using fun h => hread (readAdmitted_of_write h)⟩
  case text =>
    by_contra h
    have hstore := inStore_of_writeAdmitted (by simpa using h) hlo hhi
    exact absurd hstore (by simp [not_inStore_of_text hwf htext htext'])

/-! ### The fetch (R51, 30_encoding.md R90) -/

theorem fetchSlot_misaligned {s : State} (h : s.pc.toNat % 4 ≠ 0) :
    s.fetchSlot = .done (s.takeFaultAt s.pc ⟨.misalignedAddress, some s.pc⟩) := if_pos h

/-- No slot stands at an address past the text. -/
theorem slotAt_past_text {s : State} {a : Word} (h : s.cfg.textBase + 4 * s.text.length ≤ a.toNat) :
    s.slotAt a = none :=
  List.getElem?_eq_none (by omega)

theorem fetchSlot_out {s : State} (halign : s.pc.toNat % 4 = 0)
    (h : s.pc.toNat < s.cfg.textBase ∨ s.cfg.textBase + 4 * s.text.length ≤ s.pc.toNat) :
    s.fetchSlot = .done (s.takeFaultAt s.pc ⟨.memoryOutOfBounds, some s.pc⟩) := by
  rw [State.fetchSlot, if_neg (by simp [halign])]
  rcases h with hlo | hhi
  · rw [if_neg (by omega)]
  · rw [if_pos (by omega), slotAt_past_text hhi]

theorem decodeSlot_reserved {s : State} {w : Word} {e : Reserved} (h : decode s.pc w = .error e) :
    s.decodeSlot (.word w) = .done (s.advance.takeReserved w) := by
  simp only [State.decodeSlot, h]

/-- A fetch that ends the step. -/
theorem step_of_fetchSlot_done {s t : State} (hr : s.run = .ready ∨ s.run = .running)
    (h : (s.setRun .running).fetchSlot = .done t) : step s = .next t := by
  simp only [step, fetch_of_active hr, h]

/-- A fetch fault changes `run` and the record only. -/
theorem onlyChanges_fetchFault (s : State) (a : Word) (r : Raise) :
    OnlyChanges [.run] s ((s.setRun .running).takeFaultAt a r) :=
  ((onlyChanges_setRun s .running).trans (onlyChanges_takeFaultAt _ a r)).mono (by simp)

/-- Settles O10: each case is one outcome of the fetch, on the state whose `run` is running. -/
theorem fetchFaultsAndReservedWords : Obligations.FetchFaultsAndReservedWords := by
  intro s hr
  refine ⟨fun hmis => ?misaligned, fun halign hout => ?outside, fun w e halign hlo hslot hdecode => ?reserved⟩
  case misaligned =>
    exact ⟨_, step_of_fetchSlot_done hr (fetchSlot_misaligned (s := s.setRun .running) hmis), rfl, rfl, rfl,
      onlyChanges_fetchFault s _ _⟩
  case outside =>
    exact ⟨_, step_of_fetchSlot_done hr (fetchSlot_out (s := s.setRun .running) halign hout), rfl, rfl, rfl,
      onlyChanges_fetchFault s _ _⟩
  case reserved =>
    have hfetch : (s.setRun .running).fetchSlot = .done ((s.setRun .running).advance.takeReserved w) := by
      rw [fetchSlot_of_slotAt (s := s.setRun .running) halign hlo hslot,
        decodeSlot_reserved (s := s.setRun .running) hdecode]
    have honly := ((onlyChanges_setRun s .running).trans (onlyChanges_advance _)).trans (onlyChanges_takeReserved _ w)
    exact ⟨_, step_of_fetchSlot_done hr hfetch, rfl, by simp, rfl, rfl, rfl, honly.mono (by simp)⟩

/-! ### Services by their number (47_syscall.md R270) -/

theorem exec_syscall_of_service {s : State} {n : Service} (h : serviceOf (s.getX 2).toInt = some n) :
    exec .syscall s = s.service n := by
  simp only [exec, execSyscall, v0, h]

theorem getX_setX_v0 (s : State) (v : Word) (q : Reg) : (s.setX 2 v).getX q = if q = 2 then v else s.getX q := by
  rw [State.getX_setX]
  split <;> simp_all

/-! ### The heap pointer (R53, 47_syscall.md R279) -/

theorem sbrk_negative {s : State} {n : Word} (h : n.toInt < 0) : s.sbrk n = .error ⟨.invalidArgument, none⟩ := if_pos h

/-- The rounding of `sbrk`: the multiple of 4 next at or above `z`. -/
theorem roundUp_eq {z new : Nat} (h4 : new % 4 = 0) (hlo : z ≤ new) (hhi : new < z + 4) : 4 * ((z + 3) / 4) = new := by
  omega

section
variable {s : State} {n : Word} {new : Nat} (hn : 0 ≤ n.toInt) (h4 : new % 4 = 0)
  (hlo : s.heapPtr.toNat + n.toNat ≤ new) (hhi : new < s.heapPtr.toNat + n.toNat + 4)
include hn h4 hlo hhi

theorem sbrk_out (h : s.cfg.initialSp.toNat < new) : s.sbrk n = .error ⟨.memoryOutOfBounds, none⟩ := by
  rw [State.sbrk, if_neg (by omega), roundUp_eq h4 hlo hhi, if_neg (by omega)]

theorem sbrk_ok (h : new ≤ s.cfg.initialSp.toNat) : s.sbrk n = .ok (s.heapPtr, BitVec.ofNat 32 new) := by
  rw [State.sbrk, if_neg (by omega), roundUp_eq h4 hlo hhi, if_pos h]

end

theorem exec_sbrk {s : State} (h9 : (s.getX 2).toInt = 9) : exec .syscall s = serviceSbrk s :=
  exec_syscall_of_service (n := .sbrk) (by rw [h9]; rfl)

/-- Settles O56: the three outcomes of `sbrk`, with `new` the rounded sum. That `heapPtr` is aligned is not used, since
the model rounds the sum. -/
theorem sbrkReturnsTheOldHeapPointer : Obligations.SbrkReturnsTheOldHeapPointer := by
  intro s h9 _
  refine ⟨fun hneg => ?negative, fun new hn h4 hlo hhi => ⟨fun hsp => ?outside, fun hsp => ?grows⟩⟩
  case negative =>
    refine completes_next ?_ (raises_takeFault s .invalidArgument none)
    rw [exec_sbrk h9, serviceSbrk, sbrk_negative hneg, complete_error]
  case outside =>
    refine completes_next ?_ ⟨none, raises_takeFault s .memoryOutOfBounds none⟩
    rw [exec_sbrk h9, serviceSbrk, sbrk_out hn h4 hlo hhi hsp, complete_error]
  case grows =>
    have honly := (onlyChanges_setHeapPtr s (BitVec.ofNat 32 new)).trans (writesX_setX _ 2 s.heapPtr).2
    refine completes_next (t := (s.setHeapPtr (BitVec.ofNat 32 new)).setX 2 s.heapPtr) ?_
      ⟨?heap, fun q => ?regs, honly.mono (by simp)⟩
    · rw [exec_sbrk h9, serviceSbrk, sbrk_ok hn h4 hlo hhi hsp, complete_ok]
    case heap =>
      have := s.cfg.initialSp.isLt
      simp only [State.setX_heapPtr, State.setHeapPtr_heapPtr, BitVec.toNat_ofNat]
      omega
    case regs => rw [getX_setX_v0, State.setHeapPtr_getX]

/-! ### Numerals from the console and from memory (47_syscall.md R277, R278) -/

theorem exec_readInt {s : State} (h5 : (s.getX 2).toInt = 5) : exec .syscall s = serviceReadInt s :=
  exec_syscall_of_service (n := .readInt) (by rw [h5]; rfl)

theorem exec_atoi {s : State} (h6 : (s.getX 2).toInt = 6) : exec .syscall s = serviceAtoi s :=
  exec_syscall_of_service (n := .atoi) (by rw [h6]; rfl)

theorem serviceReadInt_noLine {s : State} (h : s.input = []) : serviceReadInt s = .fault .awaitingInput := by
  simp only [serviceReadInt, State.readLine, h]

theorem serviceReadInt_numeral {s : State} {l : List Byte} {ls : List (List Byte)} {z : Int} (h : s.input = l :: ls)
    (hz : Denotes l z) : serviceReadInt s = (s.setInput ls).putNumeral z := by
  simp only [serviceReadInt, State.readLine, h, parseNumeral_eq_some.mpr hz]

theorem serviceReadInt_invalid {s : State} {l : List Byte} {ls : List (List Byte)} (h : s.input = l :: ls)
    (hz : ¬ ∃ z, Denotes l z) : serviceReadInt s = .next ((s.setInput ls).takeFault ⟨.invalidInput, none⟩) := by
  simp only [serviceReadInt, State.readLine, h, parseNumeral_eq_none.mpr hz]

theorem serviceAtoi_numeral {s : State} {t : List Byte} {z : Int}
    (h : s.stringAt allowedByte (s.getX 4) = .done t) (hz : Denotes t z) : serviceAtoi s = s.putNumeral z := by
  simp only [serviceAtoi, a0, h, State.withString, parseNumeral_eq_some.mpr hz]

theorem serviceAtoi_invalid {s : State} {t : List Byte}
    (h : s.stringAt allowedByte (s.getX 4) = .done t) (hz : ¬ ∃ z, Denotes t z) :
    serviceAtoi s = .next (s.takeFault ⟨.invalidCharacter, none⟩) := by
  simp only [serviceAtoi, a0, h, State.withString, parseNumeral_eq_none.mpr hz]

theorem serviceAtoi_raised {s : State} {r : Raise} (h : s.stringAt allowedByte (s.getX 4) = .raised r) :
    serviceAtoi s = .next (s.takeFault r) := by
  simp only [serviceAtoi, a0, h, State.withString]

/-- A numeral is a minus sign and digits, all of them in the allowed set. -/
theorem allowed_of_denotes {t : List Byte} {z : Int} (h : Denotes t z) : ∀ b ∈ t, Allowed b := by
  obtain ⟨neg, ds, -, hds, rfl, -⟩ := h
  intro b hb
  rcases List.mem_append.mp hb with hsign | hdigit
  · have : b = 0x2D := by cases neg <;> simp_all
    subst this
    exact .inr (.inr (by decide))
  · have := hds b hdigit
    exact .inr (.inr (by omega))

theorem allowedByte_eq_false_iff (b : Byte) : allowedByte b = false ↔ ¬ Allowed b := by
  rw [← allowedByte_iff, Bool.not_eq_true]

/-- A string that ends is read whole, or raises at its first byte that is not let through. -/
theorem stringAt_cases {s : State} {ok : Byte → Bool} {a : Word} {t : List Byte} (h : HoldsString s a t) :
    s.stringAt ok a = .done t ∨ s.stringAt ok a = .raised ⟨.invalidCharacter, none⟩ := by
  cases hf : t.find? (fun b => !ok b) with
  | none => exact .inl (stringAt_done h (by simpa using hf))
  | some b =>
    obtain ⟨hb, pre, post, rfl, hpre⟩ := List.find?_eq_some_iff_append.mp hf
    have hbytes : HoldsBytes s a (pre ++ [b]) := HoldsBytes.left (u := post) (by simpa using h.1)
    exact .inr (stringAt_invalid hbytes (by simpa using hpre) (by simpa using hb))

/-- Service 5 on a numeral that a Word holds. -/
theorem readInt_writes {s : State} {l : List Byte} {ls : List (List Byte)} {z : Int} (h5 : (s.getX 2).toInt = 5)
    (hl : s.input = l :: ls) (hz : Denotes l z) (hin : inWord z) :
    Completes .syscall s fun t => t.input = ls ∧ (∀ q, t.getX q = if q = 2 then W z else s.getX q)
      ∧ OnlyChanges [.x, .input] s t := by
  have honly := (onlyChanges_setInput s ls).trans (writesX_setX (s.setInput ls) 2 (W z)).2
  refine completes_next (t := (s.setInput ls).setX 2 (W z)) ?_ ⟨by simp, fun q => ?_, honly.mono (by simp)⟩
  · rw [exec_readInt h5, serviceReadInt_numeral hl hz, putNumeral_in hin]
  · rw [getX_setX_v0, State.setInput_getX]

/-- Service 5 on any other text: the line is consumed. -/
theorem readInt_rejects {s : State} {l : List Byte} {ls : List (List Byte)} (h5 : (s.getX 2).toInt = 5)
    (hl : s.input = l :: ls) (hz : ¬ ∃ z, Denotes l z) :
    Completes .syscall s fun t => t.input = ls ∧ t.run = .faulted
      ∧ t.fault = some ⟨.invalidInput, s.pc - 4, none, none⟩ ∧ t.exitCode = s.exitCode
      ∧ OnlyChanges [.run, .input] s t := by
  obtain ⟨hrun, hfault, hexit, honly⟩ := raises_takeFault (s.setInput ls) .invalidInput none
  exact completes_next ((exec_readInt h5).trans (serviceReadInt_invalid hl hz))
    ⟨rfl, hrun, hfault, hexit, ((onlyChanges_setInput s ls).trans honly).mono (by simp)⟩

/-- Service 6 on a numeral: its bytes are all allowed, so the string is read whole. -/
theorem exec_atoi_numeral {s : State} {text : List Byte} {z : Int} (h6 : (s.getX 2).toInt = 6)
    (h : HoldsString s (s.getX 4) text) (hz : Denotes text z) : exec .syscall s = s.putNumeral z := by
  have hok : ∀ b ∈ text, allowedByte b = true := fun b hb => (allowedByte_iff b).mpr (allowed_of_denotes hz b hb)
  rw [exec_atoi h6, serviceAtoi_numeral (stringAt_done h hok) hz]

/-- Service 6 raises what the read of its string raises. -/
theorem atoi_raises {s : State} {k : FaultKind} {b : Option Word} (h6 : (s.getX 2).toInt = 6)
    (h : s.stringAt allowedByte (s.getX 4) = .raised ⟨k, b⟩) : Completes .syscall s fun t => Raises s t k b :=
  completes_next ((exec_atoi h6).trans (serviceAtoi_raised h)) (raises_takeFault s k b)

/-- Service 6 on a string that is no numeral raises the same fault whether or not its bytes are allowed. -/
theorem atoi_rejects {s : State} {text : List Byte} (h6 : (s.getX 2).toInt = 6) (h : HoldsString s (s.getX 4) text)
    (hz : ¬ ∃ z, Denotes text z) : Completes .syscall s fun t => Raises s t .invalidCharacter none := by
  rcases stringAt_cases (ok := allowedByte) h with hdone | hraised
  · exact completes_next ((exec_atoi h6).trans (serviceAtoi_invalid hdone hz)) (raises_takeFault s .invalidCharacter none)
  · exact atoi_raises h6 hraised

/-- Settles O54: the parser accepts exactly the numerals, which are strings of allowed bytes; a string that does not
end raises where its read does. -/
theorem numeralServicesParseSignedDecimals : Obligations.NumeralServicesParseSignedDecimals := by
  intro s
  refine ⟨fun h5 => ⟨fun hnil => ?noLine, fun line rest hl => ?line⟩,
    fun h6 text => ⟨fun hstring => ?string, fun hallowed => ?endless⟩⟩
  case noLine => rw [exec_readInt h5, serviceReadInt_noLine hnil]
  case line =>
    refine ⟨fun z hz => readInt_writes h5 hl hz, fun z hz hout => ?_, readInt_rejects h5 hl⟩
    rw [exec_readInt h5, serviceReadInt_numeral hl hz, putNumeral_out hout]
  case string =>
    exact ⟨fun z hz hin => completes_next ((exec_atoi_numeral h6 hstring hz).trans (putNumeral_in hin)) (writesX_setX ..),
      fun z hz hout => (exec_atoi_numeral h6 hstring hz).trans (putNumeral_out hout), atoi_rejects h6 hstring⟩
  case endless =>
    have hok : ∀ b ∈ text, allowedByte b = true := fun b hb => (allowedByte_iff b).mpr (hallowed b hb)
    exact ⟨fun b hbytes hb => atoi_raises h6 (stringAt_invalid hbytes hok ((allowedByte_eq_false_iff b).mpr hb)),
      fun hbytes hout => atoi_raises h6 (stringAt_out hbytes hok hout)⟩

end Sys2Proof.Machine

/-! PROOFS. The binary level (spec/30_encoding.md): what the fields of a packed word are, what each operand is after
encoding and decoding, what each row of the opcode table asks of the fields of a word, and what the decoder's tree of
tests finds; then the statements of the family 30_encoding.md. -/

namespace Sys2Proof

/-! ### Fields of a word (R83) -/

@[simp] theorem fields_packR (op f : BitVec 6) (rs rt rd sa : BitVec 5) :
    opField (packR op rs rt rd sa f) = op ∧ rsField (packR op rs rt rd sa f) = rs
      ∧ rtField (packR op rs rt rd sa f) = rt ∧ rdField (packR op rs rt rd sa f) = rd
      ∧ saField (packR op rs rt rd sa f) = sa ∧ functField (packR op rs rt rd sa f) = f := by
  refine ⟨?_, ?_, ?_, ?_, ?_, ?_⟩ <;> apply BitVec.eq_of_getLsbD_eq <;> intro i hi
  all_goals
    simp only [opField, rsField, rtField, rdField, saField, functField, packR, BitVec.getLsbD_extractLsb',
      BitVec.getLsbD_append]
    grind

@[simp] theorem fields_packI (op : BitVec 6) (rs rt : BitVec 5) (imm : BitVec 16) :
    opField (packI op rs rt imm) = op ∧ rsField (packI op rs rt imm) = rs ∧ rtField (packI op rs rt imm) = rt
      ∧ immField (packI op rs rt imm) = imm := by
  refine ⟨?_, ?_, ?_, ?_⟩ <;> apply BitVec.eq_of_getLsbD_eq <;> intro i hi
  all_goals
    simp only [opField, rsField, rtField, immField, packI, BitVec.getLsbD_extractLsb', BitVec.getLsbD_append]
    grind

@[simp] theorem fields_packJ (op : BitVec 6) (index : BitVec 26) :
    opField (packJ op index) = op ∧ indexField (packJ op index) = index :=
  ⟨BitVec.extractLsb'_append_eq_left, BitVec.extractLsb'_append_eq_right⟩

theorem packR_fields (w : Word) :
    packR (opField w) (rsField w) (rtField w) (rdField w) (saField w) (functField w) = w := by
  apply BitVec.eq_of_getLsbD_eq
  intro i hi
  simp only [packR, opField, rsField, rtField, rdField, saField, functField, BitVec.getLsbD_append,
    BitVec.getLsbD_extractLsb']
  grind

/-- The six fields of the format R make up the word. -/
theorem word_eq_iff_fields (w v : Word) : w = v ↔
    opField w = opField v ∧ rsField w = rsField v ∧ rtField w = rtField v ∧ rdField w = rdField v
      ∧ saField w = saField v ∧ functField w = functField v := by
  constructor
  · rintro rfl
    simp
  · rintro ⟨hop, hrs, hrt, hrd, hsa, hf⟩
    rw [← packR_fields w, ← packR_fields v, hop, hrs, hrt, hrd, hsa, hf]

/-! The narrow fields of the formats FC, FB and MC are parts of the `sa` and the `rt` position. -/

theorem fcField_eq (w : Word) : fcField w = (saField w).extractLsb' 2 3 := by
  ext i hi
  simp only [fcField, saField, BitVec.getElem_extractLsb', BitVec.getLsbD_extractLsb']
  grind

theorem fbField_eq (w : Word) : fbField w = (rtField w).extractLsb' 2 3 := by
  ext i hi
  simp only [fbField, rtField, BitVec.getElem_extractLsb', BitVec.getLsbD_extractLsb']
  grind

theorem tfField_eq (w : Word) : tfField w = (rtField w).extractLsb' 0 2 := by
  ext i hi
  simp only [tfField, rtField, BitVec.getElem_extractLsb', BitVec.getLsbD_extractLsb']
  grind

theorem tfField_eq_iff (w : Word) (t : BitVec 2) : tfField w = t ↔ rtField w &&& 3#5 = t.setWidth 5 := by
  rw [tfField_eq]
  generalize rtField w = b
  revert b t
  decide

/-! ### Operands of a word (R86): what decoding makes of an encoded operand, and the range of a decoded one -/

theorem regOf_bitsOf (r : Fin 32) : regOf (bitsOf r) = r := by simp [regOf, bitsOf]

theorem ccTf_parts (k : CC) (t : BitVec 1) :
    ccOf ((ccTf k t).extractLsb' 2 3) = k ∧ (ccTf k t).extractLsb' 0 2 = 0#1 ++ t := by revert k t; decide

theorem ccZero_parts (k : CC) : ccOf ((ccZero k).extractLsb' 2 3) = k ∧ ccZero k &&& 3#5 = 0#5 := by revert k; decide

theorem toInt_ofInt_of_signed16 {z : Int} (h : signed16 z = true) : (BitVec.ofInt 16 z).toInt = z := by
  simp only [signed16, Bool.and_eq_true, decide_eq_true_eq] at h
  exact BitVec.toInt_ofInt_eq_self (by decide) h.1 h.2

theorem toNat_ofInt_of_unsigned16 {z : Int} (h : unsigned16 z = true) : ((BitVec.ofInt 16 z).toNat : Int) = z := by
  simp only [unsigned16, Bool.and_eq_true, decide_eq_true_eq] at h
  simp only [BitVec.toNat_ofInt]
  omega

theorem toNat_ofInt_of_shift5 {z : Int} (h : shift5 z = true) : ((BitVec.ofInt 5 z).toNat : Int) = z := by
  simp only [shift5, Bool.and_eq_true, decide_eq_true_eq] at h
  simp only [BitVec.toNat_ofInt]
  omega

theorem signed16_toInt (imm : BitVec 16) : signed16 imm.toInt = true := by
  have hlow := imm.le_toInt
  have hhigh := imm.toInt_lt
  simp only [signed16, Bool.and_eq_true, decide_eq_true_eq]
  omega

theorem unsigned16_toNat (imm : BitVec 16) : unsigned16 imm.toNat = true := by
  simp only [unsigned16, Bool.and_eq_true, decide_eq_true_eq]
  omega

theorem shift5_toNat (sa : BitVec 5) : shift5 sa.toNat = true := by
  simp only [shift5, Bool.and_eq_true, decide_eq_true_eq]
  omega

/-! ### Targets of a word (R87) -/

/-- A branch target modulo 2^32. -/
theorem branchTarget_eq (a : Word) (imm : BitVec 16) : branchTarget a imm = a + 4 + W (4 * imm.toInt) := by
  simp [branchTarget, BitVec.ofInt_add, BitVec.ofInt_natCast]

theorem branchDistance_branchTarget (a : Word) (imm : BitVec 16) :
    branchDistance a (branchTarget a imm) = 4 * imm.toInt := by
  have hlow := imm.le_toInt
  have hhigh := imm.toInt_lt
  rw [branchDistance, branchTarget_eq, BitVec.add_comm (a + 4), BitVec.add_sub_cancel]
  exact BitVec.toInt_ofInt_eq_self (by decide) (by omega) (by omega)

theorem branchReachable_branchTarget (a : Word) (imm : BitVec 16) : branchReachable a (branchTarget a imm) = true := by
  have hlow := imm.le_toInt
  have hhigh := imm.toInt_lt
  simp only [branchReachable, branchDistance_branchTarget, Bool.and_eq_true, beq_iff_eq, decide_eq_true_eq]
  omega

theorem branchTarget_branchImm {a target : Word} (h : branchReachable a target = true) :
    branchTarget a (branchImm a target) = target := by
  simp only [branchReachable, Bool.and_eq_true, beq_iff_eq, decide_eq_true_eq] at h
  have himm : (branchImm a target).toInt = branchDistance a target / 4 :=
    BitVec.toInt_ofInt_eq_self (by decide) (by omega) (by omega)
  have hdist : 4 * (branchDistance a target / 4) = branchDistance a target := by omega
  rw [branchTarget_eq, himm, hdist, branchDistance, W, BitVec.ofInt_toInt, BitVec.add_comm, BitVec.sub_add_cancel]

theorem jumpReachable_jumpTarget (a : Word) (index : BitVec 26) : jumpReachable a (jumpTarget a index) = true := by
  simp only [jumpReachable, jumpTarget, Bool.and_eq_true, beq_iff_eq]
  constructor
  · exact BitVec.extractLsb'_append_eq_right
  · rw [BitVec.extractLsb'_append_eq_of_le (by decide)]
    exact BitVec.extractLsb'_append_eq_left

theorem jumpTarget_jumpIndex {a target : Word} (h : jumpReachable a target = true) :
    jumpTarget a (jumpIndex target) = target := by
  simp only [jumpReachable, Bool.and_eq_true, beq_iff_eq] at h
  obtain ⟨hlow, hhigh⟩ := h
  rw [jumpTarget, jumpIndex, ← hlow, ← hhigh]
  ext i hi
  simp only [BitVec.getElem_append, BitVec.getElem_extractLsb']
  grind

/-! ### Rows of the opcode table (R88) -/

@[simp] theorem and_mask5 (b : BitVec 5) : b &&& 31#5 = b := BitVec.and_allOnes

@[simp] theorem and_mask6 (b : BitVec 6) : b &&& 63#6 = b := BitVec.and_allOnes

/-- A row asks something of each field of a word on its own. -/
theorem Row.fits_iff (r : Row) (w : Word) : r.fits w = true ↔
    opField w &&& r.mask.extractLsb' 26 6 = r.bits.extractLsb' 26 6
      ∧ rsField w &&& r.mask.extractLsb' 21 5 = r.bits.extractLsb' 21 5
      ∧ rtField w &&& r.mask.extractLsb' 16 5 = r.bits.extractLsb' 16 5
      ∧ rdField w &&& r.mask.extractLsb' 11 5 = r.bits.extractLsb' 11 5
      ∧ saField w &&& r.mask.extractLsb' 6 5 = r.bits.extractLsb' 6 5
      ∧ functField w &&& r.mask.extractLsb' 0 6 = r.bits.extractLsb' 0 6 := by
  rw [Row.fits, beq_iff_eq, word_eq_iff_fields]
  simp only [opField, rsField, rtField, rdField, saField, functField, BitVec.extractLsb'_and]

theorem Instr.row_mem_opcodeTable (i : Instr) : i.row ∈ opcodeTable := by
  cases i <;> simp only [Instr.row] <;> decide

/-- Two rows of the table that ask the same of every bit that both fix are the same row. -/
theorem rows_eq_of_agree : ∀ r ∈ opcodeTable, ∀ q ∈ opcodeTable,
    (r.bits ^^^ q.bits) &&& r.mask &&& q.mask = 0 → r = q := by decide +kernel

/-- No word fits two rows of the table. -/
theorem row_eq_of_fits {r q : Row} {w : Word} (hr : r ∈ opcodeTable) (hq : q ∈ opcodeTable) (hrw : r.fits w = true)
    (hqw : q.fits w = true) : r = q := by
  apply rows_eq_of_agree r hr q hq
  rw [Row.fits, beq_iff_eq] at hrw hqw
  ext i hi
  simp only [← hrw, ← hqw, BitVec.getElem_and, BitVec.getElem_xor]
  grind

/-! ### What the decoder finds (R88, R89)

The decoder is a tree of tests on fields. `Reads` is what every record at a leaf of it has; one lemma for each node. -/

/-- `i` is a record that the word `w` at `a` may stand for: `w` fits its row, and its operands have a word. -/
def Reads (a w : Word) (i : Instr) : Prop := i.row.fits w = true ∧ i.encodable a = true

/-- If there is a record in `o`, the word may stand for it. -/
def AllRead (a w : Word) (o : Option Instr) : Prop := ∀ i ∈ o, Reads a w i

section

variable {a w : Word}

theorem AllRead.ite {c : Prop} [Decidable c] {x y : Option Instr} (hx : c → AllRead a w x) (hy : AllRead a w y) :
    AllRead a w (if c then x else y) := by
  split
  · exact hx ‹c›
  · exact hy

theorem allRead_some (i : Instr) : AllRead a w (some i) ↔ Reads a w i := by simp [AllRead]

theorem allRead_none : AllRead a w none := by simp [AllRead]

theorem allRead_onlyIf (c : Bool) (i : Instr) : AllRead a w (onlyIf c i) ↔ (c = true → Reads a w i) := by
  cases c <;> simp [AllRead, onlyIf]

theorem allRead_movcc (hop : opField w = 0x00#6) (hf : functField w = 0x01#6) : AllRead a w (decodeMovcc w) := by
  unfold decodeMovcc
  repeat' with_reducible refine AllRead.ite (fun htf => ?_) ?_
  all_goals simp_all [allRead_onlyIf, allRead_none, Reads, Row.fits_iff, Instr.row, Instr.encodable, tfField_eq_iff]

theorem allRead_special (hop : opField w = 0x00#6) : AllRead a w (decodeSpecial w) := by
  unfold decodeSpecial
  repeat' with_reducible refine AllRead.ite (fun hf => ?_) ?_
  all_goals simp +contextual [allRead_onlyIf, allRead_some, allRead_none, allRead_movcc, Reads, Row.fits_iff, Instr.row,
    Instr.encodable, shift5_toNat, *]

theorem allRead_special2 (hop : opField w = 0x1C#6) : AllRead a w (decodeSpecial2 w) := by
  unfold decodeSpecial2
  repeat' with_reducible refine AllRead.ite (fun hf => ?_) ?_
  all_goals simp +contextual [allRead_onlyIf, allRead_none, Reads, Row.fits_iff, Instr.row, Instr.encodable, *]

theorem allRead_regimm (hop : opField w = 0x01#6) : AllRead a w (decodeRegimm a w) := by
  unfold decodeRegimm
  repeat' with_reducible refine AllRead.ite (fun hrt => ?_) ?_
  all_goals simp [allRead_some, allRead_none, Reads, Row.fits_iff, Instr.row, Instr.encodable,
    branchReachable_branchTarget, *]

theorem allRead_fmtS (hop : opField w = 0x11#6) (hrs : rsField w = 0x10#5) : AllRead a w (decodeFmtS w) := by
  unfold decodeFmtS
  repeat' with_reducible refine AllRead.ite (fun hf => ?_) ?_
  all_goals simp +contextual [allRead_onlyIf, allRead_some, allRead_none, Reads, Row.fits_iff, Instr.row,
    Instr.encodable, *]

theorem allRead_fmtD (hop : opField w = 0x11#6) (hrs : rsField w = 0x11#5) : AllRead a w (decodeFmtD w) := by
  unfold decodeFmtD
  repeat' with_reducible refine AllRead.ite (fun hf => ?_) ?_
  all_goals simp +contextual [allRead_onlyIf, allRead_some, allRead_none, Reads, Row.fits_iff, Instr.row,
    Instr.encodable, *]

theorem allRead_fmtW (hop : opField w = 0x11#6) (hrs : rsField w = 0x14#5) : AllRead a w (decodeFmtW w) := by
  unfold decodeFmtW
  repeat' with_reducible refine AllRead.ite (fun hf => ?_) ?_
  all_goals simp +contextual [allRead_onlyIf, allRead_none, Reads, Row.fits_iff, Instr.row, Instr.encodable, *]

theorem allRead_bc1 (hop : opField w = 0x11#6) (hrs : rsField w = 0x08#5) : AllRead a w (decodeBc1 a w) := by
  unfold decodeBc1
  repeat' with_reducible refine AllRead.ite (fun htf => ?_) ?_
  all_goals simp_all [allRead_some, allRead_none, Reads, Row.fits_iff, Instr.row, Instr.encodable, tfField_eq_iff,
    branchReachable_branchTarget]

theorem allRead_cop1 (hop : opField w = 0x11#6) : AllRead a w (decodeCop1 a w) := by
  unfold decodeCop1
  repeat' with_reducible refine AllRead.ite (fun hrs => ?_) ?_
  all_goals simp +contextual [allRead_onlyIf, allRead_none, allRead_bc1, allRead_fmtS, allRead_fmtD, allRead_fmtW,
    Reads, Row.fits_iff, Instr.row, Instr.encodable, *]

theorem allRead_decodeRow : AllRead a w (decodeRow a w) := by
  unfold decodeRow
  repeat' with_reducible refine AllRead.ite (fun hop => ?_) ?_
  all_goals simp +contextual [allRead_onlyIf, allRead_some, allRead_none, allRead_special, allRead_special2,
    allRead_regimm, allRead_cop1, Reads, Row.fits_iff, Instr.row, Instr.encodable, signed16_toInt, unsigned16_toNat,
    branchReachable_branchTarget, jumpReachable_jumpTarget, *]

end

/-! Which node decodes a word, by its primary opcode and the second field the node is chosen by. -/

section

variable {w : Word} (a : Word)

theorem decodeRow_special (hop : opField w = 0x00#6) : decodeRow a w = decodeSpecial w := by simp [decodeRow, hop]

theorem decodeRow_movcc (hop : opField w = 0x00#6) (hf : functField w = 0x01#6) : decodeRow a w = decodeMovcc w := by
  simp [decodeRow_special a hop, decodeSpecial, hf]

theorem decodeRow_special2 (hop : opField w = 0x1C#6) : decodeRow a w = decodeSpecial2 w := by simp [decodeRow, hop]

theorem decodeRow_regimm (hop : opField w = 0x01#6) : decodeRow a w = decodeRegimm a w := by simp [decodeRow, hop]

theorem decodeRow_cop1 (hop : opField w = 0x11#6) : decodeRow a w = decodeCop1 a w := by simp [decodeRow, hop]

theorem decodeRow_fmtS (hop : opField w = 0x11#6) (hrs : rsField w = 0x10#5) : decodeRow a w = decodeFmtS w := by
  simp [decodeRow_cop1 a hop, decodeCop1, hrs]

theorem decodeRow_fmtD (hop : opField w = 0x11#6) (hrs : rsField w = 0x11#5) : decodeRow a w = decodeFmtD w := by
  simp [decodeRow_cop1 a hop, decodeCop1, hrs]

theorem decodeRow_fmtW (hop : opField w = 0x11#6) (hrs : rsField w = 0x14#5) : decodeRow a w = decodeFmtW w := by
  simp [decodeRow_cop1 a hop, decodeCop1, hrs]

theorem decodeRow_bc1 (hop : opField w = 0x11#6) (hrs : rsField w = 0x08#5) : decodeRow a w = decodeBc1 a w := by
  simp [decodeRow_cop1 a hop, decodeCop1, hrs]

/-- A word that fits a row is decoded: the row fixes every field that the tests on the way to its leaf look at. -/
theorem decodeRow_of_fits {i : Instr} (h : i.row.fits w = true) : decodeRow a w ≠ none := by
  cases i <;> simp [Row.fits_iff, Instr.row] at h
  case add | addu | sub | subu | slt | sltu | and | or | nor | xor | sll | srl | sra | sllv | srlv | srav | mult | multu
      | div | divu | mfhi | mflo | jr | jalr | movn | movz | syscall =>
    simp [decodeRow_special, decodeSpecial, onlyIf, h]
  case movt | movf => simp [decodeRow_movcc, decodeMovcc, onlyIf, tfField_eq_iff, h]
  case mul | madd | maddu | msub | msubu | clz | clo => simp [decodeRow_special2, decodeSpecial2, onlyIf, h]
  case bltz | bgez => simp [decodeRow_regimm, decodeRegimm, h]
  case addS | subS | mulS | divS | sqrtS | roundWS | truncWS | ceilWS | floorWS | cvtDS | cvtWS | cEqS | cLtS | cLeS =>
    simp [decodeRow_fmtS, decodeFmtS, onlyIf, h]
  case addD | subD | mulD | divD | sqrtD | roundWD | truncWD | ceilWD | floorWD | cvtSD | cvtWD | cEqD | cLtD | cLeD =>
    simp [decodeRow_fmtD, decodeFmtD, onlyIf, h]
  case cvtSW | cvtDW => simp [decodeRow_fmtW, decodeFmtW, onlyIf, h]
  case bc1t | bc1f => simp [decodeRow_bc1, decodeBc1, tfField_eq_iff, h]
  case mfc1 | mtc1 => simp [decodeRow_cop1, decodeCop1, onlyIf, h]
  all_goals simp [decodeRow, onlyIf, h]

end

/-- The decoder reads back the record that a word encodes, if its operands fit their fields. -/
theorem decodeRow_toWord {a : Word} {i : Instr} (h : i.encodable a = true) : decodeRow a (i.toWord a) = some i := by
  cases i <;> simp only [Instr.encodable] at h <;> simp only [Instr.toWord]
  case sll | srl | sra =>
    simp [decodeRow_special, decodeSpecial, onlyIf, regOf_bitsOf, toNat_ofInt_of_shift5 h, -BitVec.toNat_ofInt]
  case add | addu | sub | subu | slt | sltu | and | or | nor | xor | sllv | srlv | srav | mult | multu | div | divu
      | mfhi | mflo | jr | jalr | movn | movz | syscall =>
    simp [decodeRow_special, decodeSpecial, onlyIf, regOf_bitsOf]
  case movt | movf => simp [decodeRow_movcc, decodeMovcc, onlyIf, regOf_bitsOf, tfField_eq, fbField_eq, ccTf_parts]
  case mul | madd | maddu | msub | msubu | clz | clo => simp [decodeRow_special2, decodeSpecial2, onlyIf, regOf_bitsOf]
  case bltz | bgez => simp [decodeRow_regimm, decodeRegimm, regOf_bitsOf, branchTarget_branchImm h]
  case addS | subS | mulS | divS | sqrtS | roundWS | truncWS | ceilWS | floorWS | cvtDS | cvtWS =>
    simp [decodeRow_fmtS, decodeFmtS, onlyIf, regOf_bitsOf]
  case cEqS | cLtS | cLeS => simp [decodeRow_fmtS, decodeFmtS, onlyIf, regOf_bitsOf, fcField_eq, ccZero_parts]
  case addD | subD | mulD | divD | sqrtD | roundWD | truncWD | ceilWD | floorWD | cvtSD | cvtWD =>
    simp [decodeRow_fmtD, decodeFmtD, onlyIf, regOf_bitsOf]
  case cEqD | cLtD | cLeD => simp [decodeRow_fmtD, decodeFmtD, onlyIf, regOf_bitsOf, fcField_eq, ccZero_parts]
  case cvtSW | cvtDW => simp [decodeRow_fmtW, decodeFmtW, onlyIf, regOf_bitsOf]
  case bc1t | bc1f =>
    simp [decodeRow_bc1, decodeBc1, tfField_eq, fbField_eq, ccTf_parts, branchTarget_branchImm h]
  case mfc1 | mtc1 => simp [decodeRow_cop1, decodeCop1, onlyIf, regOf_bitsOf]
  case beq | bne | blez | bgtz => simp [decodeRow, onlyIf, regOf_bitsOf, branchTarget_branchImm h]
  case j | jal => simp [decodeRow, jumpTarget_jumpIndex h]
  case andi | ori | xori | lui =>
    simp [decodeRow, onlyIf, regOf_bitsOf, toNat_ofInt_of_unsigned16 h, -BitVec.toNat_ofInt]
  all_goals simp [decodeRow, regOf_bitsOf, toInt_ofInt_of_signed16 h, -BitVec.toInt_ofInt]

/-! ### The decoder's answers (R89, R90) -/

theorem decode_eq_ok_iff {a w : Word} {i : Instr} :
    decode a w = .ok i ↔ decodeRow a w = some i ∧ i.wellFormed = true := by
  unfold decode
  cases decodeRow a w with
  | none => simp
  | some j =>
    simp only [Option.some.injEq]
    split <;> grind

theorem decode_eq_noRow_iff {a w : Word} : decode a w = .error .noRow ↔ decodeRow a w = none := by
  unfold decode
  cases decodeRow a w with
  | none => simp
  | some j => cases hj : j.wellFormed <;> simp [hj]

theorem decodeRow_eq_none_iff {a w : Word} : decodeRow a w = none ↔ ∀ r ∈ opcodeTable, r.fits w = false := by
  constructor
  · intro h r hr
    obtain ⟨i, -, rfl⟩ := List.mem_map.mp hr
    exact Bool.eq_false_iff.mpr fun hi => decodeRow_of_fits a hi h
  · intro h
    refine Option.eq_none_iff_forall_ne_some.mpr fun i hi => ?_
    exact Bool.eq_false_iff.mp (h i.row i.row_mem_opcodeTable) (allRead_decodeRow i hi).1

/-- Settles O6: the encoder's word has its operands in the fields that the decoder reads them from. -/
theorem decodeOfEncodeIsTheInstruction : Obligations.DecodeOfEncodeIsTheInstruction := by
  intro a i hw he
  exact ⟨i.toWord a, by simp [encode, hw, he], decode_eq_ok_iff.mpr ⟨decodeRow_toWord he, hw⟩⟩

/-- Settles O7: a leaf of the decoder is reached only by words of its row and by all of them, and no word fits two
rows. -/
theorem aDecodedWordFitsExactlyItsRow : Obligations.ADecodedWordFitsExactlyItsRow := by
  refine ⟨fun a w i h => ?_, fun a w => decode_eq_noRow_iff.trans decodeRow_eq_none_iff⟩
  obtain ⟨hrow, hw⟩ := decode_eq_ok_iff.mp h
  obtain ⟨hfits, hencodable⟩ := allRead_decodeRow i hrow
  refine ⟨hw, hencodable, fun r hr => ⟨fun hrw => ?_, ?_⟩⟩
  · exact row_eq_of_fits hr i.row_mem_opcodeTable hrw hfits
  · rintro rfl
    exact hfits

/-- Settles O8: the decoder computes each of these words. -/
theorem decodesTheWordsOfTheSpecsVectors : Obligations.DecodesTheWordsOfTheSpecsVectors := by
  unfold Obligations.DecodesTheWordsOfTheSpecsVectors
  and_intros <;> decide

end Sys2Proof

/-! PROOFS. The statements of the family 40_arithmetic_compare.md: the forms that write a register or raise, said once
for each shape of a rule, then the instructions of each shape. -/

namespace Sys2Proof.Machine

/-! ### The shapes of the rules: a write, a signed check, a check of a literal -/

section
variable {i : Instr} {s : State} {r : Reg}

theorem completes_setX {v : Word} (h : exec i s = .next (s.setX r v)) : Completes i s fun t => WritesX s t r v :=
  completes_next h (writesX_setX s r v)

theorem checksSigned_of_putChecked {z : Int} (h : exec i s = s.putChecked r z) : ChecksSigned i s r z :=
  ⟨fun hin => completes_setX (h.trans (putChecked_in hin)),
    fun hout => completes_next (h.trans (putChecked_out hout)) (raises_takeFault ..)⟩

theorem checksLiteral_of_exec {z bound : Int} {v : Word} (hin : 0 ≤ z ∧ z < bound → exec i s = .next (s.setX r v))
    (hout : ¬ (0 ≤ z ∧ z < bound) → exec i s = .next (s.takeFault ⟨.invalidImmediate, none⟩)) :
    ChecksLiteral i s r z bound v :=
  ⟨fun h => completes_setX (hin h), fun h => completes_next (hout h) (raises_takeFault ..)⟩

theorem immediate16_in {imm : Int} (h : 0 ≤ imm ∧ imm < 65536) : immediate16 imm = .ok (W imm) := if_pos h

theorem immediate16_out {imm : Int} (h : ¬ (0 ≤ imm ∧ imm < 65536)) :
    immediate16 imm = .error ⟨.invalidImmediate, none⟩ := if_neg h

/-- The forms with an unsigned immediate (R110, 41_bitwise_shift.md R124 to R126) differ in the function `f` alone. -/
theorem checksLiteral_of_immediate16 {imm : Int} (f : Word → Word)
    (h : exec i s = s.complete (immediate16 imm) fun w => s.setX r (f w)) :
    ChecksLiteral i s r imm 65536 (f (W imm)) := by
  refine checksLiteral_of_exec (fun hin => ?_) (fun hout => ?_)
  · rw [h, immediate16_in hin, complete_ok]
  · rw [h, immediate16_out hout, complete_error]

end

/-! ### Sums and differences (R100 to R105) -/

/-- Settles O24: the three instructions are `putChecked` of the true result. -/
theorem addSubAddiCheckTheSignedRange : Obligations.AddSubAddiCheckTheSignedRange :=
  fun _ _ _ _ _ => ⟨checksSigned_of_putChecked rfl, checksSigned_of_putChecked rfl, checksSigned_of_putChecked rfl⟩

/-- Settles O25: each instruction is one register write, which checks nothing. -/
theorem addSubUnsignedWrap : Obligations.AddSubUnsignedWrap :=
  fun _ _ _ _ _ => ⟨completes_setX rfl, completes_setX rfl, completes_setX rfl⟩

/-! ### Compares (R106 to R109) -/

theorem truth_decide (p : Prop) [Decidable p] : truth (decide p) = if p then 1 else 0 := by
  by_cases h : p <;> simp [truth, h]

theorem completes_truth {i : Instr} {s : State} {r : Reg} {p : Prop} [Decidable p]
    (h : exec i s = .next (s.setX r (truth (decide p)))) :
    Completes i s fun t => WritesX s t r (if p then 1 else 0) :=
  completes_setX (truth_decide p ▸ h)

/-- Settles O26: each compare writes the truth value of its comparison. -/
theorem setOnLessThanWritesOneOrZero : Obligations.SetOnLessThanWritesOneOrZero :=
  fun _ _ _ _ _ => ⟨completes_truth rfl, completes_truth rfl, completes_truth rfl, completes_truth rfl⟩

/-! ### Immediates of sixteen bits (R110, 41_bitwise_shift.md R124 to R126) -/

/-- Settles O27: `lui` uses only that the immediate is in range, the other three the Word it is. -/
theorem upperAndLogicalImmediatesCheckSixteenBits : Obligations.UpperAndLogicalImmediatesCheckSixteenBits := by
  intro s rt rs imm
  exact ⟨checksLiteral_of_immediate16 (fun _ => W (imm * 65536)) rfl,
    checksLiteral_of_immediate16 (fun w => s.getX rs &&& w) rfl,
    checksLiteral_of_immediate16 (fun w => s.getX rs ||| w) rfl,
    checksLiteral_of_immediate16 (fun w => s.getX rs ^^^ w) rfl⟩

end Sys2Proof.Machine

/-! PROOFS. The statements of the family 41_bitwise_shift.md: the logical register forms bit by bit, and the shifts by
a literal and by a register amount. -/

namespace Sys2Proof.Machine

/-! ### Bitwise logic (R120 to R123) -/

section
variable {i : Instr} {s : State} {r : Reg}

/-- A register write whose value is known by its bits. -/
theorem completes_setX_bits {v : Word} {bit : Nat → Bool} (h : exec i s = .next (s.setX r v))
    (hbit : ∀ k < 32, v.getLsbD k = bit k) :
    Completes i s fun t => ∃ u, WritesX s t r u ∧ ∀ k < 32, u.getLsbD k = bit k :=
  completes_next h ⟨v, writesX_setX s r v, hbit⟩

end

/-- Settles O28: each instruction writes the word operation of its name, whose bits are those of the operands. -/
theorem bitwiseRegisterForms : Obligations.BitwiseRegisterForms := by
  intro s rd rs rt
  refine ⟨completes_setX_bits rfl fun k _ => ?and, completes_setX_bits rfl fun k _ => ?or,
    completes_setX_bits rfl fun k hk => ?nor, completes_setX_bits rfl fun k _ => ?xor⟩
  case and => exact BitVec.getLsbD_and
  case or => exact BitVec.getLsbD_or
  case nor => simp only [BitVec.getLsbD_not, BitVec.getLsbD_or, decide_eq_true hk, Bool.true_and]
  case xor => exact BitVec.getLsbD_xor

/-! ### Shifts (R127 to R132) -/

/-- The product with `2 ^ n` as the Word of an integer (R127). -/
theorem shiftLeft_eq_W (v : Word) (n : Nat) : shiftLeft v n = W (v.toNat * 2 ^ n) := by
  rw [shiftLeft, ← BitVec.ofInt_natCast, Nat.cast_mul, Nat.cast_pow, Nat.cast_ofNat]

/-- The floor of the unsigned quotient as the Word of an integer (R128). -/
theorem shiftRightLogical_eq_W (v : Word) (n : Nat) : shiftRightLogical v n = W (v.toNat / 2 ^ n) := by
  rw [shiftRightLogical, ← BitVec.ofInt_natCast, Int.natCast_ediv, Nat.cast_pow, Nat.cast_ofNat]

theorem shiftRightArithmetic_eq_W (v : Word) (n : Nat) : shiftRightArithmetic v n = W (v.toInt / 2 ^ n) := rfl

theorem shiftLiteral_in {sa : Int} (h : 0 ≤ sa ∧ sa < 32) : shiftLiteral sa = .ok sa.toNat := by
  rw [shiftLiteral, if_pos h, Nat.mod_eq_of_lt (by omega)]

theorem shiftLiteral_out {sa : Int} (h : ¬ (0 ≤ sa ∧ sa < 32)) :
    shiftLiteral sa = .error ⟨.invalidImmediate, none⟩ := if_neg h

/-- The shifts by a literal differ in the function `f` of the amount alone. -/
theorem checksLiteral_of_shiftLiteral {i : Instr} {s : State} {r : Reg} {sa : Int} {f : Nat → Word}
    (h : exec i s = s.complete (shiftLiteral sa) fun n => s.setX r (f n)) :
    ChecksLiteral i s r sa 32 (f sa.toNat) := by
  refine checksLiteral_of_exec (fun hin => ?_) (fun hout => ?_)
  · rw [h, shiftLiteral_in hin, complete_ok]
  · rw [h, shiftLiteral_out hout, complete_error]

/-- Settles O29: the checked literal and the register amount modulo 32 go through the same three shift functions. -/
theorem shiftsTakeTheirAmountModulo32 : Obligations.ShiftsTakeTheirAmountModulo32 := by
  intro s rd rt rs sa
  simp only [← shiftLeft_eq_W, ← shiftRightLogical_eq_W, ← shiftRightArithmetic_eq_W]
  exact ⟨checksLiteral_of_shiftLiteral rfl, checksLiteral_of_shiftLiteral rfl, checksLiteral_of_shiftLiteral rfl,
    completes_setX rfl, completes_setX rfl, completes_setX rfl⟩

end Sys2Proof.Machine

/-! PROOFS. The statements of the family 42_muldiv.md: the instructions that write hi and lo as the halves of one double
Word, the products, and the divisions. -/

namespace Sys2Proof.Machine

/-! ### The double Word `hi ‖ lo` -/

theorem toNat_append_word (h l : Word) : (h ++ l).toNat = h.toNat * 2 ^ 32 + l.toNat := by
  rw [BitVec.toNat_append, ← Nat.shiftLeft_add_eq_or_of_lt l.isLt, Nat.shiftLeft_eq]

theorem toInt_append_word (h l : Word) : (h ++ l).toInt = h.toInt * 2 ^ 32 + l.toNat := by
  rw [BitVec.toInt_append, if_neg (by decide), Int.mul_comm]

theorem getHiLo_toInt (s : State) : s.getHiLo.toInt = s.hi.toInt * 2 ^ 32 + s.lo.toNat := toInt_append_word s.hi s.lo

theorem getHiLo_toNat (s : State) : (s.getHiLo.toNat : Int) = s.hi.toNat * 2 ^ 32 + s.lo.toNat :=
  mod_cast toNat_append_word s.hi s.lo

/-! ### The shapes of the rules: a signed result, a result modulo 2^64, an unsigned result -/

section
variable {i : Instr} {s : State} {z : Int}

theorem completes_setHiLo {v : DWord} {P : Word → Word → Prop} (hexec : exec i s = .next (s.setHiLo v))
    (hP : ∀ h l : Word, h ++ l = v → P h l) : Completes i s fun t => ∃ h l : Word, WritesHiLo s t h l ∧ P h l :=
  completes_next hexec ⟨_, _, writesHiLo_setHiLo s v, hP _ _ BitVec.extractLsb'_append_extractLsb'⟩

/-- A result in the signed range of a double Word is what hi and lo read as, signed. -/
theorem completes_setHiLo_signed (hexec : exec i s = .next (s.setHiLo (W64 z))) (hlo : -2 ^ 63 ≤ z) (hhi : z < 2 ^ 63) :
    Completes i s fun t => ∃ h l : Word, WritesHiLo s t h l ∧ h.toInt * 2 ^ 32 + l.toNat = z :=
  completes_setHiLo hexec fun h l hv => by
    rw [← toInt_append_word, hv, BitVec.toInt_ofInt_eq_self (by decide) hlo hhi]

/-- Any result is what hi and lo read as, unsigned, modulo 2^64. -/
theorem completes_setHiLo_mod (hexec : exec i s = .next (s.setHiLo (W64 z))) :
    Completes i s fun t => ∃ h l : Word, WritesHiLo s t h l ∧ (h.toNat * 2 ^ 32 + l.toNat : Int) = z % 2 ^ 64 :=
  completes_setHiLo hexec fun h l hv => by
    have hnat : (h.toNat * 2 ^ 32 + l.toNat : Int) = (h ++ l).toNat := mod_cast (toNat_append_word h l).symm
    rw [hnat, hv, BitVec.toNat_ofInt, Int.toNat_of_nonneg (Int.emod_nonneg z (by decide))]
    rfl

theorem completes_setHiLo_unsigned {n : Nat} (hexec : exec i s = .next (s.setHiLo (W64 n))) (hn : n < 2 ^ 64) :
    Completes i s fun t => ∃ h l : Word, WritesHiLo s t h l ∧ h.toNat * 2 ^ 32 + l.toNat = n :=
  completes_setHiLo hexec fun h l hv => by
    rw [← toNat_append_word, hv, W64, BitVec.ofInt_natCast, BitVec.toNat_ofNat, Nat.mod_eq_of_lt hn]

end

/-! ### Products and moves (R140 to R142, R149, R150) -/

/-- Settles O30: the product of two Words fits a double Word, signed and unsigned. -/
theorem multiplyAndHiLoMoves : Obligations.MultiplyAndHiLoMoves := by
  intro s rd rs rt
  have hlo : -2 ^ 62 ≤ (s.getX rs).toInt * (s.getX rt).toInt := BitVec.le_toInt_mul_toInt
  have hhi : (s.getX rs).toInt * (s.getX rt).toInt ≤ 2 ^ 62 := BitVec.toInt_mul_toInt_le
  exact ⟨completes_setX rfl, completes_setHiLo_signed rfl (by omega) (by omega),
    completes_setHiLo_unsigned rfl BitVec.toNat_mul_toNat_lt, completes_setX rfl, completes_setX rfl⟩

/-! ### Multiply and accumulate (R145 to R148) -/

/-- Settles O32: each instruction writes its sum modulo 2^64, and the accumulator is read through its halves. -/
theorem multiplyAccumulateWrapsModulo2To64 : Obligations.MultiplyAccumulateWrapsModulo2To64 := by
  intro s rs rt
  simp only [← getHiLo_toInt, ← getHiLo_toNat]
  exact ⟨completes_setHiLo_mod rfl, completes_setHiLo_mod rfl, completes_setHiLo_mod rfl, completes_setHiLo_mod rfl⟩

/-! ### Division (R143, R144) -/

theorem abs_tmod_lt (a : Int) {b : Int} (hb : b ≠ 0) : |a.tmod b| < |b| := by
  rw [Int.abs_eq_natAbs, Int.abs_eq_natAbs, Int.natAbs_tmod]
  exact mod_cast Nat.mod_lt _ (Int.natAbs_pos.mpr hb)

theorem tmod_nonpos {a : Int} (b : Int) (ha : a ≤ 0) : a.tmod b ≤ 0 := by
  have h : 0 ≤ (-a).tmod b := Int.tmod_nonneg b (by omega)
  rw [Int.neg_tmod] at h
  omega

theorem W_toNat (v : Word) : W v.toNat = v := by rw [W, BitVec.ofInt_natCast, BitVec.ofNat_toNat, BitVec.setWidth_eq]

/-- The unsigned quotient and remainder of two Words are Words. -/
theorem writesHiLo_putDivision_unsigned (s : State) (a b : Word) :
    WritesHiLo s (s.putDivision (a.toNat / b.toNat : Nat) (a.toNat % b.toNat : Nat)) (a % b) (a / b) := by
  have h := writesHiLo_putDivision s (a / b).toNat (a % b).toNat
  rwa [W_toNat, W_toNat, BitVec.toNat_udiv, BitVec.toNat_umod] at h

/-- Settles O31: `div` is the truncated division of the integers, `divu` the division of the naturals. -/
theorem divisionTruncatesTowardZero : Obligations.DivisionTruncatesTowardZero := by
  intro s rs rt
  refine ⟨fun hb => ?div, fun hb => ?divZero, fun hb => ?divu, fun hb => ?divuZero⟩
  case div =>
    exact completes_next (if_neg hb) ⟨_, _, writesHiLo_putDivision s _ _, (Int.tdiv_mul_add_tmod _ _).symm,
      abs_tmod_lt _ hb, Int.tmod_nonneg _, tmod_nonpos _⟩
  case divu =>
    refine completes_next (if_neg hb) ⟨_, _, writesHiLo_putDivision_unsigned s _ _, ?_, ?_⟩
    · rw [BitVec.toNat_udiv, BitVec.toNat_umod, Nat.div_add_mod']
    · exact BitVec.toNat_umod ▸ Nat.mod_lt _ (Nat.pos_of_ne_zero hb)
  case divZero | divuZero => exact completes_next (if_pos hb) (raises_takeFault ..)

end Sys2Proof.Machine

/-! PROOFS. The binary formats (spec/43_float.md R160, R161, R174): what a pattern is worth, when a pattern is the
nearest to an exact magnitude, and that the model's roundings take it. -/

namespace Sys2Proof.Machine

/-! ### Bit patterns and their data (R160) -/

/-- What the arithmetic needs of a format, and both formats have. -/
structure Fmt.Usual (k : Fmt) : Prop where
  precision : 2 ≤ k.p
  exponent : 3 ≤ k.e
  range : k.p + 1 ≤ 2 ^ (k.e - 1)

theorem single_usual : single.Usual := ⟨by decide, by decide, by decide⟩

theorem double_usual : double.Usual := ⟨by decide, by decide, by decide⟩

namespace Fmt

/-- The units of a magnitude pattern, which go on past the largest finite number as if the exponent had no bound. -/
def units (k : Fmt) (b : Nat) : Nat :=
  if b / 2 ^ (k.p - 1) = 0 then b % 2 ^ (k.p - 1)
  else (b % 2 ^ (k.p - 1) + 2 ^ (k.p - 1)) * 2 ^ (b / 2 ^ (k.p - 1) - 1)

/-- The datum of a sign and a magnitude pattern. -/
def datumOf (k : Fmt) (s : Bool) (b : Nat) : Datum :=
  if b < k.infBits then .fin s (k.units b) else if b = k.infBits then .inf s else .nan

variable {k : Fmt}

theorem signBit_eq (k : Fmt) : k.signBit = 2 ^ (k.p - 1) * 2 ^ k.e := pow_add 2 (k.p - 1) k.e

theorem infBits_lt_signBit (k : Fmt) : k.infBits < k.signBit := by
  rw [signBit_eq, infBits, Nat.mul_comm]
  exact Nat.mul_lt_mul_of_pos_left (Nat.sub_lt (Nat.two_pow_pos _) Nat.one_pos) (Nat.two_pow_pos _)

theorem signBit_pos (k : Fmt) : 0 < k.signBit := Nat.two_pow_pos _

theorem datum_eq_datumOf (k : Fmt) (v : Nat) : k.datum v = k.datumOf (k.negative v) (v % k.signBit) := by
  have hexp : k.exponentField v = v % k.signBit / 2 ^ (k.p - 1) := by
    rw [signBit_eq, Nat.mod_mul_right_div_self]; rfl
  have hfrac : k.fractionField v = v % k.signBit % 2 ^ (k.p - 1) := by
    rw [signBit_eq, Nat.mod_mul_right_mod]; rfl
  have hlt : v % k.signBit / 2 ^ (k.p - 1) < 2 ^ k.e :=
    Nat.div_lt_of_lt_mul (signBit_eq k ▸ Nat.mod_lt v k.signBit_pos)
  have hfin : v % k.signBit < k.infBits ↔ v % k.signBit / 2 ^ (k.p - 1) < 2 ^ k.e - 1 :=
    (Nat.div_lt_iff_lt_mul (Nat.two_pow_pos _)).symm
  unfold datum datumOf
  rw [hexp, hfrac]
  by_cases htop : v % k.signBit / 2 ^ (k.p - 1) = 2 ^ k.e - 1
  · have hinf : v % k.signBit = k.infBits ↔ v % k.signBit % 2 ^ (k.p - 1) = 0 := by
      have hparts := Nat.div_add_mod' (v % k.signBit) (2 ^ (k.p - 1))
      rw [htop] at hparts
      unfold infBits
      omega
    simp [hfin, htop, hinf]
  · have hbelow : v % k.signBit < k.infBits := hfin.2 (by omega)
    simp only [htop, hbelow, if_true, if_false, units]
    split <;> rfl

theorem pack_mod_signBit (s : Bool) {b : Nat} (hb : b < k.signBit) : k.pack s b % k.signBit = b := by
  cases s <;> simp [pack, Nat.mod_eq_of_lt hb]

theorem negative_pack (s : Bool) {b : Nat} (hb : b < k.signBit) : k.negative (k.pack s b) = s := by
  cases s
  · simp [negative, pack, Nat.div_eq_of_lt hb]
  · simp [negative, pack, Nat.add_div_left b k.signBit_pos, Nat.div_eq_of_lt hb]

theorem datum_pack (s : Bool) {b : Nat} (hb : b < k.signBit) : k.datum (k.pack s b) = k.datumOf s b := by
  rw [datum_eq_datumOf, pack_mod_signBit s hb, negative_pack s hb]

theorem datum_pack_fin (s : Bool) {b : Nat} (hb : b < k.infBits) : k.datum (k.pack s b) = .fin s (k.units b) := by
  rw [datum_pack s (hb.trans k.infBits_lt_signBit), datumOf, if_pos hb]

theorem datum_pack_inf (s : Bool) : k.datum (k.pack s k.infBits) = .inf s := by
  simp [datum_pack s k.infBits_lt_signBit, datumOf]

/-- Every pattern of the format is its sign and its magnitude. -/
theorem pack_negative_mod {v : Nat} (hv : v < 2 * k.signBit) : k.pack (k.negative v) (v % k.signBit) = v := by
  have hdiv : v / k.signBit < 2 := Nat.div_lt_of_lt_mul (by omega)
  have hparts := Nat.div_add_mod' v k.signBit
  unfold pack negative
  interval_cases hd : v / k.signBit <;> simp <;> omega

theorem datum_eq_fin {v m : Nat} {s : Bool} (h : k.datum v = .fin s m) :
    k.negative v = s ∧ v % k.signBit < k.infBits ∧ k.units (v % k.signBit) = m := by
  rw [datum_eq_datumOf, datumOf] at h
  split at h
  next hb => simp at h; exact ⟨h.1, hb, h.2⟩
  next => split at h <;> simp at h

theorem eq_pack_of_datum_inf {v : Nat} {s : Bool} (hv : v < 2 * k.signBit) (h : k.datum v = .inf s) :
    v = k.pack s k.infBits := by
  rw [← pack_negative_mod hv]
  rw [datum_eq_datumOf, datumOf] at h
  split at h
  next => simp at h
  next => split at h <;> simp_all

theorem datum_eq_nan {v : Nat} (h : k.infBits < v % k.signBit) : k.datum v = .nan := by
  rw [datum_eq_datumOf, datumOf, if_neg (by omega), if_neg (by omega)]

theorem pack_lt (s : Bool) {b : Nat} (hb : b < k.signBit) : k.pack s b < 2 * k.signBit := by
  cases s <;> simp [pack] <;> omega

/-! ### The units of a pattern -/

theorem two_pow_e (hk : k.Usual) : 2 ^ k.e = 2 * 2 ^ (k.e - 1) := by
  rw [← pow_succ', Nat.sub_add_cancel (by have := hk.exponent; omega)]

theorem two_pow_p (hk : k.Usual) : 2 ^ k.p = 2 * 2 ^ (k.p - 1) := by
  rw [← pow_succ', Nat.sub_add_cancel (by have := hk.precision; omega)]

/-- `q` steps of `2^t` units, as long as `q` has the precision of the format: the carry into the exponent included. -/
theorem units_grid (k : Fmt) {t q : Nat} (hq : q ≤ 2 * 2 ^ (k.p - 1)) (ht : t = 0 ∨ 2 ^ (k.p - 1) ≤ q) :
    k.units (t * 2 ^ (k.p - 1) + q) = q * 2 ^ t := by
  have hpos : 0 < 2 ^ (k.p - 1) := Nat.two_pow_pos _
  unfold units
  rw [Nat.add_comm, Nat.add_mul_div_right _ _ hpos, Nat.add_mul_mod_self_right]
  generalize 2 ^ (k.p - 1) = P at *
  rcases Nat.lt_trichotomy q P with hlt | rfl | hgt
  · obtain rfl : t = 0 := by omega
    simp [Nat.div_eq_of_lt hlt, Nat.mod_eq_of_lt hlt]
  · simp [Nat.div_self hpos]
  · rcases Nat.eq_or_lt_of_le hq with rfl | hq'
    · have h2 : 2 * P / P = 2 := Nat.mul_div_cancel _ hpos
      have hexp : 2 + t - 1 = t + 1 := by omega
      simp [h2, hexp, pow_succ]
      ring
    · have h1 : q / P = 1 := Nat.div_eq_of_lt_le (by omega) (by omega)
      have hm : q % P + P = q := by have := Nat.div_add_mod' q P; rw [h1] at this; omega
      simp [h1, hm]

theorem exists_grid (k : Fmt) (b : Nat) :
    ∃ t q, b = t * 2 ^ (k.p - 1) + q ∧ q < 2 * 2 ^ (k.p - 1) ∧ (t = 0 ∨ 2 ^ (k.p - 1) ≤ q) := by
  have hparts := Nat.div_add_mod' b (2 ^ (k.p - 1))
  have hmod : b % 2 ^ (k.p - 1) < 2 ^ (k.p - 1) := Nat.mod_lt _ (Nat.two_pow_pos _)
  cases hd : b / 2 ^ (k.p - 1) with
  | zero => exact ⟨0, b, by omega, by rw [hd] at hparts; omega, .inl rfl⟩
  | succ t =>
    refine ⟨t, 2 ^ (k.p - 1) + b % 2 ^ (k.p - 1), ?_, by omega, .inr (by omega)⟩
    rw [hd, Nat.add_one_mul] at hparts
    omega

theorem units_strictMono (k : Fmt) : StrictMono k.units := by
  refine strictMono_nat_of_lt_succ fun b => ?_
  obtain ⟨t, q, rfl, hq, ht⟩ := k.exists_grid b
  rw [Nat.add_assoc, units_grid k hq.le ht, units_grid k hq (by omega)]
  exact Nat.mul_lt_mul_of_pos_right (Nat.lt_succ_self q) (Nat.two_pow_pos t)

@[simp] theorem units_zero (k : Fmt) : k.units 0 = 0 := by simp [units]

theorem units_infBits (hk : k.Usual) : k.units k.infBits = 2 ^ (k.p - 1) * 2 ^ (2 ^ k.e - 2) := by
  have he : 2 ^ 3 ≤ 2 ^ k.e := Nat.pow_le_pow_right (by decide) hk.exponent
  have hbits : k.infBits = (2 ^ k.e - 2) * 2 ^ (k.p - 1) + 2 ^ (k.p - 1) := by
    rw [← Nat.add_one_mul, infBits]; congr 1; omega
  rw [hbits, units_grid k (by omega) (by omega)]

theorem units_largest (hk : k.Usual) : k.units (k.infBits - 1) = (2 * 2 ^ (k.p - 1) - 1) * 2 ^ (2 ^ k.e - 3) := by
  have he : 2 ^ 3 ≤ 2 ^ k.e := Nat.pow_le_pow_right (by decide) hk.exponent
  have hpos : 0 < 2 ^ (k.p - 1) := Nat.two_pow_pos _
  have hbits : k.infBits - 1 = (2 ^ k.e - 3) * 2 ^ (k.p - 1) + (2 * 2 ^ (k.p - 1) - 1) := by
    have : k.infBits = (2 ^ k.e - 3) * 2 ^ (k.p - 1) + 2 * 2 ^ (k.p - 1) := by
      rw [← Nat.add_mul, infBits]; congr 1; omega
    omega
  rw [hbits, units_grid k (by omega) (by omega)]

theorem two_pow_even (hk : k.Usual) : 2 ^ (k.p - 1) % 2 = 0 := by
  rw [show k.p - 1 = k.p - 2 + 1 by have := hk.precision; omega, pow_succ, Nat.mul_mod_left]

theorem infBits_even (hk : k.Usual) : k.infBits % 2 = 0 := by
  rw [infBits, Nat.mul_mod, two_pow_even hk, Nat.mul_zero, Nat.zero_mod]

theorem infBits_pos (hk : k.Usual) : 0 < k.infBits := by
  have he : 2 ^ 3 ≤ 2 ^ k.e := Nat.pow_le_pow_right (by decide) hk.exponent
  exact Nat.mul_pos (by omega) (Nat.two_pow_pos _)

end Fmt

/-! ### Rounding to an integer (R174) -/

theorem isFloor_floorDiv (n : Int) {d : Nat} (hd : 0 < d) : IsFloor n d (floorDiv n d) :=
  ⟨Int.ediv_mul_le n (by omega), Int.lt_ediv_add_one_mul_self n (by omega)⟩

theorem isCeil_ceilDiv (n : Int) {d : Nat} (hd : 0 < d) : IsCeil n d (ceilDiv n d) := by
  obtain ⟨hle, hlt⟩ := isFloor_floorDiv (-n) hd
  unfold IsCeil ceilDiv
  unfold floorDiv at hle hlt
  constructor <;> linarith

theorem isTrunc_truncDiv (n : Int) {d : Nat} (hd : 0 < d) : IsTrunc n d (truncDiv n d) := by
  refine ⟨fun hn => ?_, fun hn => ?_⟩
  · have : truncDiv n d = floorDiv n d := Int.tdiv_eq_ediv_of_nonneg hn
    exact this ▸ isFloor_floorDiv n hd
  · have : truncDiv n d = ceilDiv n d := by
      rw [truncDiv, ceilDiv, ← Int.tdiv_eq_ediv_of_nonneg (by omega), Int.neg_tdiv, Int.neg_neg]
    exact this ▸ isCeil_ceilDiv n hd

theorem isNearestEven_roundHalfEven (n : Int) {d : Nat} (hd : 0 < d) : IsNearestEven n d (roundHalfEven n d) := by
  have hparts := Int.ediv_mul_add_emod n d
  have hnonneg := Int.emod_nonneg n (b := d) (by omega)
  have hlt := Int.emod_lt_of_pos n (b := d) (by omega)
  unfold IsNearestEven roundHalfEven
  generalize hr : n % d = r at *
  generalize hq : n / d = q at *
  have hup : (q + 1) * d = q * d + d := by ring
  split
  · omega
  · split
    · omega
    · rw [hup]; omega

namespace Fmt

variable {k : Fmt}

/-! ### The nearest pattern, by the midpoints to its neighbours -/

/-- The magnitude `x`, in units, lies between the midpoints from the pattern `b` to its two neighbours, and only an
even pattern stands for a midpoint. -/
structure BetweenMidpoints {K : Type} [Field K] [LinearOrder K] (k : Fmt) (b : Nat) (x : K) : Prop where
  lower : 0 < b → (k.units (b - 1) + k.units b : K) ≤ 2 * x
  upper : 2 * x ≤ (k.units b + k.units (b + 1) : K)
  even_of_lower : 0 < b → (k.units (b - 1) + k.units b : K) = 2 * x → b % 2 = 0
  even_of_upper : 2 * x = (k.units b + k.units (b + 1) : K) → b % 2 = 0

/-- `q` is `x / 2^t` rounded to nearest, ties to even, where `2^t` units is the step of the patterns around `x`. -/
structure RoundsAt {K : Type} [Field K] [LinearOrder K] (k : Fmt) (t q : Nat) (x : K) : Prop where
  normal : t = 0 ∨ 2 ^ (k.p - 1) * 2 ^ t ≤ x
  below : x < 2 * 2 ^ (k.p - 1) * 2 ^ t
  lower : (2 * q - 1) * 2 ^ t ≤ 2 * x
  upper : 2 * x ≤ (2 * q + 1) * 2 ^ t
  even_of_lower : (2 * q - 1) * 2 ^ t = 2 * x → q % 2 = 0
  even_of_upper : 2 * x = (2 * q + 1) * 2 ^ t → q % 2 = 0

section
variable {K : Type} [Field K] [LinearOrder K] [IsStrictOrderedRing K] {t q b : Nat} {x : K}

theorem units_lt_units {a c : Nat} (k : Fmt) (h : a < c) : (k.units a : K) < k.units c := mod_cast k.units_strictMono h

theorem units_le_units {a c : Nat} (k : Fmt) (h : a ≤ c) : (k.units a : K) ≤ k.units c :=
  mod_cast k.units_strictMono.monotone h

namespace RoundsAt

theorem le_two_pow (h : RoundsAt k t q x) : q ≤ 2 * 2 ^ (k.p - 1) := by
  have hpos : (0 : K) < 2 ^ t := by positivity
  have hlt : ((2 * q - 1) * 2 ^ t : K) < 2 * (2 * 2 ^ (k.p - 1)) * 2 ^ t := by linarith [h.lower, h.below]
  have : (2 * q : K) < 2 * (2 * 2 ^ (k.p - 1)) + 1 := by linarith [lt_of_mul_lt_mul_right hlt hpos.le]
  have : 2 * q < 2 * (2 * 2 ^ (k.p - 1)) + 1 := mod_cast this
  omega

theorem normal_steps (h : RoundsAt k t q x) : t = 0 ∨ 2 ^ (k.p - 1) ≤ q := by
  refine h.normal.imp_right fun hx => ?_
  have hpos : (0 : K) < 2 ^ t := by positivity
  have hle : (2 * 2 ^ (k.p - 1) * 2 ^ t : K) ≤ (2 * q + 1) * 2 ^ t := by linarith [h.upper]
  have : (2 * 2 ^ (k.p - 1) : K) ≤ 2 * q + 1 := le_of_mul_le_mul_right hle hpos
  have : 2 * 2 ^ (k.p - 1) ≤ 2 * q + 1 := mod_cast this
  omega

theorem units_eq (h : RoundsAt k t q x) : (k.units (t * 2 ^ (k.p - 1) + q) : K) = q * 2 ^ t :=
  mod_cast units_grid k h.le_two_pow h.normal_steps

/-- The midpoint below is that of the grid, or `x` is above it because it is not below the pattern itself. -/
theorem lower_midpoint (h : RoundsAt k t q x) (hb : 0 < t * 2 ^ (k.p - 1) + q) :
    (k.units (t * 2 ^ (k.p - 1) + q - 1) + k.units (t * 2 ^ (k.p - 1) + q) : K) < 2 * x
      ∨ (k.units (t * 2 ^ (k.p - 1) + q - 1) + k.units (t * 2 ^ (k.p - 1) + q) : K) = (2 * q - 1) * 2 ^ t := by
  rcases le_or_gt (q * 2 ^ t : K) x with hle | hgt
  · left
    have := units_lt_units (K := K) k (Nat.sub_lt hb Nat.one_pos)
    linarith [h.units_eq]
  · right
    have hnormal : t = 0 ∨ 2 ^ (k.p - 1) < q := h.normal.imp_right fun hx => by
      have : (2 ^ (k.p - 1) : K) < q := lt_of_mul_lt_mul_right (hx.trans_lt hgt) (by positivity)
      exact mod_cast this
    have hq : 1 ≤ q := by
      rcases hnormal with rfl | hlt
      · simpa [Nat.one_le_iff_ne_zero, Nat.pos_iff_ne_zero] using hb
      · exact Nat.one_le_of_lt hlt
    have hprev : (k.units (t * 2 ^ (k.p - 1) + (q - 1)) : K) = (q - 1 : Nat) * 2 ^ t :=
      mod_cast units_grid k (by have := h.le_two_pow; omega) (by omega)
    rw [h.units_eq, Nat.add_sub_assoc hq, hprev, Nat.cast_sub hq]
    push_cast
    ring

theorem upper_midpoint (h : RoundsAt k t q x) :
    2 * x < (k.units (t * 2 ^ (k.p - 1) + q) + k.units (t * 2 ^ (k.p - 1) + q + 1) : K)
      ∨ (k.units (t * 2 ^ (k.p - 1) + q) + k.units (t * 2 ^ (k.p - 1) + q + 1) : K) = (2 * q + 1) * 2 ^ t := by
  rcases le_or_gt x (q * 2 ^ t : K) with hle | hgt
  · left
    have := units_lt_units (K := K) k (Nat.lt_succ_self (t * 2 ^ (k.p - 1) + q))
    rw [Nat.succ_eq_add_one] at this
    linarith [h.units_eq]
  · right
    have hq : q < 2 * 2 ^ (k.p - 1) := by
      have : (q : K) < 2 * 2 ^ (k.p - 1) := lt_of_mul_lt_mul_right (hgt.trans h.below) (by positivity)
      exact mod_cast this
    have hnext : (k.units (t * 2 ^ (k.p - 1) + (q + 1)) : K) = (q + 1 : Nat) * 2 ^ t :=
      mod_cast units_grid k hq (by have := h.normal_steps; omega)
    rw [h.units_eq, Nat.add_assoc, hnext]
    push_cast
    ring

theorem betweenMidpoints (hk : k.Usual) (h : RoundsAt k t q x) :
    k.BetweenMidpoints (t * 2 ^ (k.p - 1) + q) x := by
  have heven : (t * 2 ^ (k.p - 1) + q) % 2 = q % 2 := by
    rw [Nat.add_mod, Nat.mul_mod, two_pow_even hk]; simp
  refine ⟨fun hb => ?_, ?_, fun hb htie => ?_, fun htie => ?_⟩
  · rcases h.lower_midpoint hb with hlt | heq
    · exact hlt.le
    · exact heq.trans_le h.lower
  · rcases h.upper_midpoint with hlt | heq
    · exact hlt.le
    · exact h.upper.trans_eq heq.symm
  · rcases h.lower_midpoint hb with hlt | heq
    · exact absurd htie hlt.ne
    · exact heven.trans (h.even_of_lower (heq.symm.trans htie))
  · rcases h.upper_midpoint with hlt | heq
    · exact absurd htie hlt.ne
    · exact heven.trans (h.even_of_upper (htie.trans heq))

end RoundsAt

/-- Between its midpoints a pattern is the nearest one, and a tie with another makes it even. -/
theorem BetweenMidpoints.nearest (h : k.BetweenMidpoints b x) (c : Nat) :
    |(k.units b : K) - x| ≤ |(k.units c : K) - x|
      ∧ (|(k.units b : K) - x| = |(k.units c : K) - x| → c = b ∨ b % 2 = 0) := by
  rcases Nat.lt_trichotomy c b with hlt | rfl | hgt
  · have hc : (k.units c : K) ≤ k.units (b - 1) := units_le_units k (by omega)
    have hb : (k.units (b - 1) : K) < k.units b := units_lt_units k (by omega)
    have hmid := h.lower (by omega)
    rw [abs_of_nonpos (by linarith : (k.units c : K) - x ≤ 0)]
    rcases le_or_gt x (k.units b : K) with hx | hx
    · rw [abs_of_nonneg (by linarith)]
      exact ⟨by linarith, fun htie => .inr (h.even_of_lower (by omega) (by linarith))⟩
    · rw [abs_of_neg (by linarith)]
      exact ⟨by linarith, fun htie => by linarith⟩
  · exact ⟨le_rfl, fun _ => .inl rfl⟩
  · have hc : (k.units (b + 1) : K) ≤ k.units c := units_le_units k hgt
    have hb : (k.units b : K) < k.units (b + 1) := units_lt_units k b.lt_succ_self
    have hmid := h.upper
    rw [abs_of_nonneg (by linarith : 0 ≤ (k.units c : K) - x)]
    rcases le_or_gt x (k.units b : K) with hx | hx
    · rw [abs_of_nonneg (by linarith)]
      exact ⟨by linarith, fun htie => by linarith⟩
    · rw [abs_of_neg (by linarith)]
      exact ⟨by linarith, fun htie => .inr (h.even_of_upper (by linarith))⟩

/-- No finite value of either sign is nearer to a magnitude. -/
theorem BetweenMidpoints.nearest_signed (h : k.BetweenMidpoints b x) (hx : 0 ≤ x) (opposite : Bool) (c : Nat) :
    |(k.units b : K) - x| ≤ |(if opposite then -(k.units c : K) else k.units c) - x|
      ∧ (|(k.units b : K) - x| = |(if opposite then -(k.units c : K) else k.units c) - x| →
        (k.units b : K) = (if opposite then -(k.units c : K) else k.units c) ∨ b % 2 = 0) := by
  cases opposite
  · exact ⟨(h.nearest c).1, fun htie => ((h.nearest c).2 htie).imp_left fun hc => by rw [hc]; rfl⟩
  · rcases Nat.eq_zero_or_pos c with rfl | hc
    · obtain ⟨hle, heven⟩ := h.nearest 0
      simp only [units_zero, Nat.cast_zero, neg_zero, if_true] at hle heven ⊢
      exact ⟨hle, fun htie => (heven htie).imp_left fun hb => by rw [← hb, units_zero, Nat.cast_zero]⟩
    · have hpos : (0 : K) < k.units c := by simpa using units_lt_units (K := K) k hc
      have hzero := (h.nearest 0).1
      rw [units_zero, Nat.cast_zero, zero_sub, abs_neg, abs_of_nonneg hx] at hzero
      have hfar : |-(k.units c : K) - x| = k.units c + x := by rw [abs_of_neg (by linarith)]; ring
      simp only [if_true, hfar]
      exact ⟨by linarith, fun htie => by linarith⟩

/-- Half a step past the largest finite number, in units: the least magnitude that rounds to infinity. -/
def overflow (k : Fmt) : Nat := (2 ^ (k.p + 1) - 1) * 2 ^ (2 ^ k.e - 4)

theorem two_mul_overflow (hk : k.Usual) : 2 * k.overflow = k.units (k.infBits - 1) + k.units k.infBits := by
  have he : 2 ^ 3 ≤ 2 ^ k.e := Nat.pow_le_pow_right (by decide) hk.exponent
  rw [units_largest hk, units_infBits hk, overflow, pow_succ', two_pow_p hk,
    show 2 ^ k.e - 2 = 2 ^ k.e - 4 + 2 by omega, show 2 ^ k.e - 3 = 2 ^ k.e - 4 + 1 by omega, pow_add _ _ 2, pow_succ]
  have hpos : 0 < 2 ^ (k.p - 1) := Nat.two_pow_pos _
  generalize 2 ^ (k.p - 1) = P at *
  generalize 2 ^ (2 ^ k.e - 4) = S
  obtain ⟨m, rfl⟩ : ∃ m, P = m + 1 := ⟨P - 1, by omega⟩
  rw [show 2 * (2 * (m + 1)) - 1 = 4 * m + 3 by omega, show 2 * (m + 1) - 1 = 2 * m + 1 by omega]
  ring

/-- A finite pattern stands for magnitudes short of the overflow threshold only. -/
theorem BetweenMidpoints.lt_overflow (hk : k.Usual) (h : k.BetweenMidpoints b x) (hb : b < k.infBits) :
    x < k.overflow := by
  have hmid : (2 * k.overflow : K) = k.units (k.infBits - 1) + k.units k.infBits := mod_cast two_mul_overflow hk
  have hle : (k.units b : K) ≤ k.units (k.infBits - 1) := units_le_units k (by omega)
  have hle' : (k.units (b + 1) : K) ≤ k.units k.infBits := units_le_units k hb
  refine lt_of_le_of_ne (by linarith [h.upper]) fun heq => ?_
  have htop : b = k.infBits - 1 := by
    by_contra hne
    have := units_lt_units (K := K) k (show b < k.infBits - 1 by omega)
    linarith [h.upper]
  have heven := h.even_of_upper (le_antisymm h.upper (by linarith))
  have := infBits_even hk
  omega

theorem BetweenMidpoints.overflow_le (hk : k.Usual) (h : k.BetweenMidpoints b x) (hb : k.infBits ≤ b) :
    (k.overflow : K) ≤ x := by
  have hmid : (2 * k.overflow : K) = k.units (k.infBits - 1) + k.units k.infBits := mod_cast two_mul_overflow hk
  have hpos : 0 < k.infBits := infBits_pos hk
  have hle : (k.units (k.infBits - 1) : K) ≤ k.units (b - 1) := units_le_units k (by omega)
  have hle' : (k.units k.infBits : K) ≤ k.units b := units_le_units k hb
  linarith [h.lower (by omega)]

end

/-! ### The one rounding of the model (R160) -/

/-- The threshold of `IsRounded` is that of the format, in units. -/
theorem overflow_div (hk : k.Usual) :
    ((2 ^ (k.p + 1) - 1) * 2 ^ (2 ^ (k.e - 1) - k.p - 1) : ℚ) = k.overflow / 2 ^ k.unitExp := by
  have hr := hk.range
  have hdouble := two_pow_e hk
  have hexp : 2 ^ k.e - 4 = 2 ^ (k.e - 1) - k.p - 1 + k.unitExp := by
    have := hk.precision
    unfold unitExp
    omega
  rw [eq_div_iff (by positivity), overflow, hexp, pow_add _ _ k.unitExp, Nat.cast_mul, Nat.cast_sub Nat.one_le_two_pow]
  push_cast
  ring

/-- At a leading bit `2^l`, either no bit is lost or the leading bit is the hidden one. -/
theorem excess_normal (k : Fmt) (l : Nat) : l - (k.p - 1) = 0 ∨ 2 ^ (k.p - 1) * 2 ^ (l - (k.p - 1)) = 2 ^ l := by
  rw [← pow_add, or_iff_not_imp_left]
  intro h
  congr 1
  omega

theorem excess_below (k : Fmt) (l : Nat) : 2 ^ (l + 1) ≤ 2 * 2 ^ (k.p - 1) * 2 ^ (l - (k.p - 1)) := by
  rw [← pow_succ', ← pow_add]
  exact Nat.pow_le_pow_right (by decide) (by omega)

theorem excess_spec (k : Fmt) (m : Nat) :
    (k.excess m = 0 ∨ 2 ^ (k.p - 1) * 2 ^ k.excess m ≤ m) ∧ m < 2 * 2 ^ (k.p - 1) * 2 ^ k.excess m := by
  refine ⟨?_, Nat.lt_log2_self.trans_le (k.excess_below _)⟩
  rcases eq_or_ne m 0 with rfl | hm
  · exact .inl (by simp [excess])
  · exact (k.excess_normal _).imp_right fun heq => heq.trans_le (Nat.log2_self_le hm)

theorem roundHalfEven_nonneg (n : Nat) {d : Nat} (hd : 0 < d) : 0 ≤ roundHalfEven n d := by
  have : 0 ≤ (n : Int) / d := Int.ediv_nonneg (by omega) (by omega)
  unfold roundHalfEven
  split
  · exact this
  · split
    · exact this
    · omega

theorem roundsAt_roundHalfEven (k : Fmt) (n : Nat) {d : Nat} (hd : 0 < d) :
    k.RoundsAt (k.excess (n / d)) (roundHalfEven n (d * 2 ^ k.excess (n / d))).toNat (n / d : ℚ) := by
  have hdq : (0 : ℚ) < d := mod_cast hd
  obtain ⟨hnormal, hbelow⟩ := k.excess_spec (n / d)
  generalize k.excess (n / d) = t at *
  have hstep : 0 < d * 2 ^ t := by positivity
  obtain ⟨hlow, hupp, heven⟩ := isNearestEven_roundHalfEven n hstep
  obtain ⟨q, hq⟩ := Int.eq_ofNat_of_zero_le (roundHalfEven_nonneg n hstep)
  rw [hq] at hlow hupp heven ⊢
  push_cast at hlow hupp heven
  refine ⟨hnormal.imp_right fun hle => ?_, ?_, ?_, ?_, fun htie => ?_, fun htie => ?_⟩
  · rw [le_div_iff₀ hdq]
    exact mod_cast (Nat.le_div_iff_mul_le hd).1 hle
  · rw [div_lt_iff₀ hdq]
    exact mod_cast (Nat.div_lt_iff_lt_mul hd).1 hbelow
  · rw [mul_div_assoc', le_div_iff₀ hdq]
    have : ((2 * q - 1) * 2 ^ t * d : Int) ≤ 2 * n := by linarith
    exact mod_cast this
  · rw [mul_div_assoc', div_le_iff₀ hdq]
    have : (2 * n : Int) ≤ (2 * q + 1) * 2 ^ t * d := by linarith
    exact mod_cast this
  · rw [mul_div_assoc', eq_div_iff hdq.ne'] at htie
    have : ((2 * q - 1) * 2 ^ t * d : Int) = 2 * n := mod_cast htie
    have := heven (.inr (by linarith))
    omega
  · rw [mul_div_assoc', div_eq_iff hdq.ne'] at htie
    have : (2 * n : Int) = (2 * q + 1) * 2 ^ t * d := mod_cast htie
    have := heven (.inl (by linarith))
    omega

/-- The exact magnitude `n / d`, in units, has a nearest pattern; the model takes it, or infinity for all past that. -/
theorem roundUnits_eq_min (hk : k.Usual) (n : Nat) {d : Nat} (hd : 0 < d) :
    ∃ b, k.BetweenMidpoints b (n / d : ℚ) ∧ k.roundUnits n d = min b k.infBits :=
  ⟨_, (roundsAt_roundHalfEven k n hd).betweenMidpoints hk, rfl⟩

/-! ### Values with a sign -/

/-- A magnitude with a sign. -/
def withSign (s : Bool) (x : ℚ) : ℚ := if s then -x else x

theorem unitValue_eq (u : Nat) (s : Bool) (m : Nat) : unitValue (2 ^ u) s m = withSign s m / 2 ^ u := by
  rw [unitValue, Nat.cast_pow, Nat.cast_ofNat]; rfl

theorem abs_withSign (s : Bool) (x : ℚ) : |withSign s x| = |x| := by cases s <;> simp [withSign]

theorem withSign_sub (s : Bool) (x y : ℚ) : withSign s x - withSign s y = withSign s (x - y) := by
  cases s <;> simp [withSign]; ring

/-- A value of sign `t`, seen from the sign `s`. -/
theorem withSign_eq_withSign (s t : Bool) (x : ℚ) : withSign t x = withSign s (if s != t then -x else x) := by
  cases s <;> cases t <;> simp [withSign]

theorem pack_mod_two (hk : k.Usual) (s : Bool) (b : Nat) : k.pack s b % 2 = b % 2 := by
  have : k.signBit % 2 = 0 := by rw [signBit_eq, Nat.mul_mod, two_pow_even hk, Nat.zero_mul, Nat.zero_mod]
  cases s <;> simp [pack, Nat.add_mod, this]

/-- What `IsRounded` asks, for the nearest pattern of a magnitude and either sign. -/
theorem BetweenMidpoints.isRounded (hk : k.Usual) {b : Nat} {x : ℚ} (h : k.BetweenMidpoints b x) (hx : 0 ≤ x)
    (s : Bool) :
    IsRounded k (k.pack s (min b k.infBits)) (withSign s x / 2 ^ k.unitExp) := by
  have hden : (0 : ℚ) < 2 ^ k.unitExp := by positivity
  have hdist (y : ℚ) : |withSign s y / 2 ^ k.unitExp - withSign s x / 2 ^ k.unitExp| = |y - x| / 2 ^ k.unitExp := by
    rw [← sub_div, withSign_sub, abs_div, abs_withSign, abs_of_pos hden]
  rcases lt_or_ge b k.infBits with hb | hb
  · rw [min_eq_left hb.le, IsRounded, datum_pack_fin s hb]
    refine ⟨?_, fun v t m hv => ?_⟩
    · rw [overflow_div hk, abs_div, abs_withSign, abs_of_nonneg hx, abs_of_pos hden]
      exact div_lt_div_of_pos_right (h.lt_overflow hk hb) hden
    · obtain ⟨-, -, rfl⟩ := datum_eq_fin hv
      obtain ⟨hle, heven⟩ := h.nearest_signed hx (s != t) (v % k.signBit)
      rw [unitValue_eq, unitValue_eq, withSign_eq_withSign s t, hdist, hdist, div_le_div_iff_of_pos_right hden,
        div_left_inj' hden.ne', pack_mod_two hk]
      exact ⟨hle, fun htie => (heven htie).imp_left fun heq => by rw [heq]⟩
  · rw [min_eq_right hb, IsRounded, datum_pack_inf]
    have hmag : (if s then -(withSign s x / 2 ^ k.unitExp) else withSign s x / 2 ^ k.unitExp) = x / 2 ^ k.unitExp := by
      cases s <;> simp [withSign, neg_div]
    refine (overflow_div hk).trans_le ?_
    rw [hmag]
    exact div_le_div_of_nonneg_right (h.overflow_le hk hb) hden.le

/-- The pattern `w` of the format is the value `r` rounded once, and has the sign `s`. -/
structure Rounds (k : Fmt) (w : Nat) (r : ℚ) (s : Bool) : Prop where
  isRounded : IsRounded k w r
  negative : k.negative w = s
  bound : w < 2 * k.signBit

theorem roundUnits_le (k : Fmt) (n d : Nat) : k.roundUnits n d ≤ k.infBits := min_le_right _ _

theorem rounds_roundUnits (hk : k.Usual) (s : Bool) (n : Nat) {d : Nat} (hd : 0 < d) :
    k.Rounds (k.pack s (k.roundUnits n d)) (withSign s (n / d) / 2 ^ k.unitExp) s := by
  have hlt : k.roundUnits n d < k.signBit := (k.roundUnits_le n d).trans_lt k.infBits_lt_signBit
  refine ⟨?_, negative_pack s hlt, pack_lt s hlt⟩
  obtain ⟨b, hb, heq⟩ := roundUnits_eq_min hk n hd
  exact heq ▸ hb.isRounded hk (by positivity) s

/-! ### The four operations on finite numbers (R164 to R167, R169 to R172) -/

theorem unitValue_add (u : Nat) (s t : Bool) (m n : Nat) :
    unitValue (2 ^ u) s m + unitValue (2 ^ u) t n = (signed s m + signed t n : Int) / 2 ^ u := by
  rw [unitValue_eq, unitValue_eq, ← add_div]
  cases s <;> cases t <;> simp [withSign, signed]

theorem addFinite_eq (k : Fmt) (s t : Bool) (m n : Nat) :
    k.addFinite s m t n = k.pack (if signed s m + signed t n = 0 then s && t else decide (signed s m + signed t n < 0))
      (k.roundUnits (signed s m + signed t n).natAbs 1) := by
  unfold addFinite
  split
  next h => rw [h]; simp [roundUnits, magnitude, excess, roundHalfEven]
  next => rfl

theorem withSign_natAbs {z : Int} {s : Bool} (h : z ≠ 0 → s = decide (z < 0)) : withSign s z.natAbs = z := by
  rcases lt_trichotomy z 0 with hz | rfl | hz
  · rw [h hz.ne, decide_eq_true hz]
    simp [withSign, Nat.cast_natAbs, abs_of_neg hz]
  · simp [withSign]
  · rw [h hz.ne', decide_eq_false hz.not_gt]
    simp [withSign, Nat.cast_natAbs, abs_of_pos hz]

theorem rounds_addFinite (hk : k.Usual) (s t : Bool) (m n : Nat) :
    k.Rounds (k.addFinite s m t n) (unitValue (2 ^ k.unitExp) s m + unitValue (2 ^ k.unitExp) t n)
      (if unitValue (2 ^ k.unitExp) s m + unitValue (2 ^ k.unitExp) t n = 0 then s && t
        else decide (unitValue (2 ^ k.unitExp) s m + unitValue (2 ^ k.unitExp) t n < 0)) := by
  have hden : (0 : ℚ) < 2 ^ k.unitExp := by positivity
  rw [unitValue_add, addFinite_eq]
  generalize signed s m + signed t n = z
  have hzero : (z / 2 ^ k.unitExp : ℚ) = 0 ↔ z = 0 := by
    rw [div_eq_zero_iff, or_iff_left hden.ne', Int.cast_eq_zero]
  have hneg : (z / 2 ^ k.unitExp : ℚ) < 0 ↔ z < 0 := by rw [div_lt_iff₀ hden, zero_mul, Int.cast_lt_zero]
  simp only [hzero, hneg]
  have h := rounds_roundUnits hk (if z = 0 then s && t else decide (z < 0)) z.natAbs Nat.one_pos
  rwa [Nat.cast_one, div_one, withSign_natAbs (fun hz => if_neg hz)] at h

theorem unitValue_negate (u : Nat) (t : Bool) (n : Nat) : unitValue u (!t) n = -unitValue u t n := by
  cases t <;> simp [unitValue, neg_div]

theorem rounds_subFinite (hk : k.Usual) (s t : Bool) (m n : Nat) :
    k.Rounds (k.addFinite s m (!t) n) (unitValue (2 ^ k.unitExp) s m - unitValue (2 ^ k.unitExp) t n)
      (if unitValue (2 ^ k.unitExp) s m - unitValue (2 ^ k.unitExp) t n = 0 then s && !t
        else decide (unitValue (2 ^ k.unitExp) s m - unitValue (2 ^ k.unitExp) t n < 0)) := by
  have h := rounds_addFinite hk s (!t) m n
  rwa [unitValue_negate, ← sub_eq_add_neg] at h

theorem withSign_mul (s t : Bool) (x y : ℚ) : withSign s x * withSign t y = withSign (s != t) (x * y) := by
  cases s <;> cases t <;> simp [withSign]

theorem withSign_div (s t : Bool) (x y : ℚ) : withSign s x / withSign t y = withSign (s != t) (x / y) := by
  cases s <;> cases t <;> simp [withSign, neg_div, div_neg]

theorem withSign_div_right (s : Bool) (x y : ℚ) : withSign s x / y = withSign s (x / y) := by
  cases s <;> simp [withSign, neg_div]

theorem rounds_mul (hk : k.Usual) (s t : Bool) (m n : Nat) :
    k.Rounds (k.pack (s != t) (k.roundUnits (m * n) (2 ^ k.unitExp)))
      (unitValue (2 ^ k.unitExp) s m * unitValue (2 ^ k.unitExp) t n) (s != t) := by
  have h := rounds_roundUnits hk (s != t) (m * n) (Nat.two_pow_pos k.unitExp)
  rw [unitValue_eq, unitValue_eq, div_mul_div_comm, withSign_mul, ← div_div, withSign_div_right]
  push_cast at h
  exact h

theorem rounds_div (hk : k.Usual) (s t : Bool) (m : Nat) {n : Nat} (hn : 0 < n) :
    k.Rounds (k.pack (s != t) (k.roundUnits (m * 2 ^ k.unitExp) n))
      (unitValue (2 ^ k.unitExp) s m / unitValue (2 ^ k.unitExp) t n) (s != t) := by
  have h := rounds_roundUnits hk (s != t) (m * 2 ^ k.unitExp) hn
  have hden : (2 : ℚ) ^ k.unitExp ≠ 0 := by positivity
  rw [unitValue_eq, unitValue_eq, div_div_div_cancel_right₀ hden, withSign_div]
  rw [withSign_div_right] at h
  push_cast at h
  rwa [div_right_comm, mul_div_cancel_right₀ _ hden] at h

/-! ### Square roots (R168, R173) -/

theorem isqrt_eq_sqrt (b : Nat) : ∀ x < 4 ^ b, isqrt b x = Nat.sqrt x := by
  induction b with
  | zero =>
    intro x hx
    obtain rfl : x = 0 := by omega
    rfl
  | succ b ih =>
    intro x hx
    have hlow := Nat.sqrt_le' (x / 4)
    have hupp := Nat.lt_succ_sqrt' (x / 4)
    rw [isqrt, ih (x / 4) (by omega), rootDigit]
    generalize Nat.sqrt (x / 4) = r at *
    have hlow4 : (2 * r) ^ 2 ≤ x := by rw [mul_pow]; omega
    have hupp4 : x < (2 * r + 1 + 1) ^ 2 := by
      rw [show (2 * r + 1 + 1) ^ 2 = 4 * r.succ ^ 2 by rw [Nat.succ_eq_add_one]; ring]
      omega
    refine Nat.eq_sqrt'.2 ?_
    split
    next h => exact ⟨h, hupp4⟩
    next h => exact ⟨hlow4, by omega⟩

section
variable {n d : Nat} {y : ℝ}

/-- Comparing twice the root `y` of `n / d` with a whole number is comparing squares. -/
theorem le_two_mul_root_iff (hd : 0 < d) (hy : 0 ≤ y) (hroot : y ^ 2 * d = n) (c : Nat) :
    (c ≤ 2 * y ↔ d * c ^ 2 ≤ 4 * n) ∧ (2 * y ≤ c ↔ 4 * n ≤ d * c ^ 2) := by
  have hdr : (0 : ℝ) < d := mod_cast hd
  have hsquare : (2 * y) ^ 2 * d = (4 * n : Nat) := by push_cast; rw [← hroot]; ring
  have hc : (c ^ 2 * d : ℝ) = (d * c ^ 2 : Nat) := by push_cast; ring
  constructor
  · rw [← pow_le_pow_iff_left₀ c.cast_nonneg (by positivity) two_ne_zero, ← mul_le_mul_iff_left₀ hdr, hsquare, hc,
      Nat.cast_le]
  · rw [← pow_le_pow_iff_left₀ (by positivity) c.cast_nonneg two_ne_zero, ← mul_le_mul_iff_left₀ hdr, hsquare, hc,
      Nat.cast_le]

theorem rootHalfEven_nearest (hd : 0 < d) (hy : 0 ≤ y) (hroot : y ^ 2 * d = n) {b : Nat} (hn : n / d < 4 ^ b) :
    (2 * rootHalfEven b n d - 1 ≤ 2 * y ∧ 2 * y ≤ 2 * rootHalfEven b n d + 1)
      ∧ (2 * rootHalfEven b n d - 1 = 2 * y ∨ 2 * y = 2 * rootHalfEven b n d + 1 → rootHalfEven b n d % 2 = 0) := by
  have hlow := Nat.sqrt_le' (n / d)
  have hupp := Nat.lt_succ_sqrt' (n / d)
  rw [Nat.le_div_iff_mul_le hd] at hlow
  rw [Nat.succ_eq_add_one, Nat.div_lt_iff_lt_mul hd] at hupp
  unfold rootHalfEven
  rw [isqrt_eq_sqrt b _ hn]
  generalize Nat.sqrt (n / d) = r at *
  obtain ⟨hle, hge⟩ := le_two_mul_root_iff hd hy hroot (2 * r + 1)
  have hyr : (r : ℝ) ≤ y := by
    have := (le_two_mul_root_iff hd hy hroot (2 * r)).1.2 (by rw [mul_pow, Nat.mul_comm d]; linarith)
    push_cast at this
    linarith
  have hyr' : y < r + 1 := by
    have := (le_two_mul_root_iff hd hy hroot (2 * (r + 1))).1.not.2 (by rw [mul_pow, Nat.mul_comm d]; linarith)
    push_cast at this
    linarith
  push_cast at hle hge
  split
  next h =>
    have h := not_le.1 (hle.not.2 (not_le.2 h))
    exact ⟨⟨by linarith, h.le⟩, by rintro (htie | htie) <;> linarith⟩
  next h =>
    have h := hle.2 (not_lt.1 h)
    split
    next heq => exact ⟨⟨by linarith, hge.2 heq.1.le⟩, fun _ => heq.2⟩
    next hne =>
      push_cast
      refine ⟨⟨by linarith, by linarith⟩, ?_⟩
      rintro (htie | htie)
      · have : r % 2 ≠ 0 := fun hr => hne ⟨le_antisymm (hge.1 (by linarith)) (hle.1 h), hr⟩
        omega
      · linarith

end

theorem roundsAt_rootHalfEven (k : Fmt) {x : Nat} (hp : 0 < k.p) (hx : x ≠ 0) :
    k.RoundsAt (Nat.log2 x / 2 - (k.p - 1)) (rootHalfEven k.p x (4 ^ (Nat.log2 x / 2 - (k.p - 1)))) (√x : ℝ) := by
  have hnormal := k.excess_normal (Nat.log2 x / 2)
  have hbelow := k.excess_below (Nat.log2 x / 2)
  have hlow : (2 ^ (Nat.log2 x / 2)) ^ 2 ≤ x := by
    rw [← pow_mul]
    exact (Nat.pow_le_pow_right (by decide) (by omega)).trans (Nat.log2_self_le hx)
  have hupp : x < (2 ^ (Nat.log2 x / 2 + 1)) ^ 2 := by
    rw [← pow_mul]
    exact Nat.lt_log2_self.trans_le (Nat.pow_le_pow_right (by decide) (by omega))
  generalize Nat.log2 x / 2 = l at *
  generalize l - (k.p - 1) = t at *
  have hscale : (0 : ℝ) < 2 ^ t := by positivity
  have hfour : ((4 ^ t : Nat) : ℝ) = (2 ^ t) ^ 2 := by push_cast; rw [← pow_mul, mul_comm t, pow_mul]; norm_num
  have hroot : (√x / 2 ^ t : ℝ) ^ 2 * (4 ^ t : Nat) = x := by
    rw [hfour, div_pow, Real.sq_sqrt x.cast_nonneg, div_mul_cancel₀ _ (by positivity)]
  have hdigits : x / 4 ^ t < 4 ^ k.p := by
    rw [Nat.div_lt_iff_lt_mul (by positivity)]
    refine hupp.trans_le ((Nat.pow_le_pow_left hbelow 2).trans_eq ?_)
    rw [← pow_succ', Nat.sub_add_cancel hp, mul_pow, ← pow_mul, ← pow_mul, mul_comm k.p, mul_comm t, pow_mul, pow_mul]
    norm_num
  obtain ⟨⟨hle, hge⟩, heven⟩ := rootHalfEven_nearest (by positivity) (by positivity) hroot hdigits
  generalize rootHalfEven k.p x (4 ^ t) = q at *
  rw [mul_div_assoc'] at hle hge heven
  refine ⟨hnormal.imp_right fun heq => ?_, ?_, (le_div_iff₀ hscale).1 hle, (div_le_iff₀ hscale).1 hge,
    fun htie => heven (.inl ((eq_div_iff hscale.ne').2 htie)),
    fun htie => heven (.inr ((div_eq_iff hscale.ne').2 htie))⟩
  · refine Real.le_sqrt_of_sq_le ?_
    rw [← heq] at hlow
    exact mod_cast hlow
  · rw [Real.sqrt_lt' (by positivity)]
    exact mod_cast hupp.trans_le (Nat.pow_le_pow_left hbelow 2)

/-- The root of a number of the format is far from overflow. -/
theorem root_pattern_lt (hk : k.Usual) {x q : Nat} (hx : x ≠ 0) (hbound : x < k.units k.infBits * 2 ^ k.unitExp)
    (hq : q ≤ 2 * 2 ^ (k.p - 1)) : (Nat.log2 x / 2 - (k.p - 1)) * 2 ^ (k.p - 1) + q + 1 < k.infBits := by
  have hlog : Nat.log2 x < k.p - 1 + (2 ^ k.e - 2) + k.unitExp := by
    rw [units_infBits hk, ← pow_add, ← pow_add] at hbound
    exact (Nat.log2_lt hx).2 hbound
  have hdouble := two_pow_e hk
  have he : 2 ^ 2 ≤ 2 ^ (k.e - 1) := Nat.pow_le_pow_right (by decide) (by have := hk.exponent; omega)
  have hp := hk.precision
  have hexcess : Nat.log2 x / 2 - (k.p - 1) + 3 ≤ 2 ^ k.e - 1 := by
    unfold unitExp at hlog
    omega
  have hhidden : 2 ≤ 2 ^ (k.p - 1) := Nat.le_self_pow (by omega) 2
  calc (Nat.log2 x / 2 - (k.p - 1)) * 2 ^ (k.p - 1) + q + 1
      < (Nat.log2 x / 2 - (k.p - 1)) * 2 ^ (k.p - 1) + 3 * 2 ^ (k.p - 1) := by omega
    _ = (Nat.log2 x / 2 - (k.p - 1) + 3) * 2 ^ (k.p - 1) := (Nat.add_mul _ _ _).symm
    _ ≤ k.infBits := Nat.mul_le_mul_right _ hexcess

/-- The root is the pattern between whose midpoints it lies, and both its neighbours are finite. -/
theorem betweenMidpoints_roundRoot (hk : k.Usual) {x : Nat} (hx : x ≠ 0)
    (hbound : x < k.units k.infBits * 2 ^ k.unitExp) :
    k.BetweenMidpoints (k.roundRoot x) (√x : ℝ) ∧ 0 < k.roundRoot x ∧ k.roundRoot x + 1 < k.infBits := by
  have h := roundsAt_rootHalfEven k (by have := hk.precision; omega) hx
  have hlt := root_pattern_lt hk hx hbound h.le_two_pow
  have hmid := h.betweenMidpoints hk
  rw [roundRoot, magnitude, min_eq_left (by omega)]
  refine ⟨hmid, Nat.pos_of_ne_zero fun hzero => ?_, hlt⟩
  have hone : (1 : ℝ) ≤ √x := Real.one_le_sqrt.2 (mod_cast Nat.one_le_iff_ne_zero.2 hx)
  have hsmallest : k.units (0 + 1) = 1 := by
    simpa using units_grid k (t := 0) (q := 1) (by have := Nat.two_pow_pos (k.p - 1); omega) (.inl rfl)
  have := hmid.upper
  rw [hzero, hsmallest, units_zero] at this
  norm_num at this
  linarith

theorem lt_units_infBits {v m : Nat} {s : Bool} (h : k.datum v = .fin s m) : m < k.units k.infBits := by
  obtain ⟨-, hfin, rfl⟩ := datum_eq_fin h
  exact k.units_strictMono hfin

/-- The pattern `w` and its two neighbours are finite, and the root of `u` units lies between the midpoints to them,
by squares. -/
def IsRoot (k : Fmt) (w u : Nat) : Prop :=
  ∃ lo m hi, k.datum (w - 1) = .fin false lo ∧ k.datum w = .fin false m ∧ k.datum (w + 1) = .fin false hi
    ∧ (lo + m) ^ 2 ≤ 4 * u * 2 ^ k.unitExp ∧ 4 * u * 2 ^ k.unitExp ≤ (m + hi) ^ 2
    ∧ ((lo + m) ^ 2 = 4 * u * 2 ^ k.unitExp ∨ 4 * u * 2 ^ k.unitExp = (m + hi) ^ 2 → w % 2 = 0)

theorem isRoot_roundRoot (hk : k.Usual) {u : Nat} (hu : u ≠ 0) (hbound : u < k.units k.infBits) :
    k.roundRoot (u * 2 ^ k.unitExp) < k.infBits ∧ k.IsRoot (k.roundRoot (u * 2 ^ k.unitExp)) u := by
  have hx : u * 2 ^ k.unitExp ≠ 0 := Nat.mul_ne_zero hu (Nat.two_pow_pos _).ne'
  have hxbound := Nat.mul_lt_mul_of_pos_right hbound (Nat.two_pow_pos k.unitExp)
  rw [IsRoot, Nat.mul_assoc]
  generalize u * 2 ^ k.unitExp = x at *
  obtain ⟨h, hpos, hlt⟩ := betweenMidpoints_roundRoot hk hx hxbound
  have hdatum (b : Nat) (hb : b < k.infBits) : k.datum b = .fin false (k.units b) := by
    simpa [pack] using datum_pack_fin false hb
  have hcompare (c : Nat) : (c ≤ 2 * √(x : ℝ) ↔ c ^ 2 ≤ 4 * x) ∧ (2 * √(x : ℝ) ≤ c ↔ 4 * x ≤ c ^ 2) := by
    simpa using le_two_mul_root_iff (d := 1) (n := x) Nat.one_pos (Real.sqrt_nonneg x) (by simp) c
  have hlower := h.lower hpos
  have hupper := h.upper
  have htieLower := h.even_of_lower hpos
  have htieUpper := h.even_of_upper
  norm_cast at hlower hupper htieLower htieUpper
  refine ⟨by omega, _, _, _, hdatum _ (by omega), hdatum _ (by omega), hdatum _ hlt, (hcompare _).1.1 hlower,
    (hcompare _).2.1 hupper, ?_⟩
  rintro (htie | htie)
  · exact htieLower (le_antisymm hlower ((hcompare _).2.2 htie.ge))
  · exact htieUpper (le_antisymm hupper ((hcompare _).1.2 htie.ge))

/-! ### Exact results (R185, R186) -/

theorem exists_steps (k : Fmt) (b : Nat) : ∃ c j, c < 2 * 2 ^ (k.p - 1) ∧ k.units b = c * 2 ^ j := by
  obtain ⟨t, q, rfl, hq, ht⟩ := k.exists_grid b
  exact ⟨q, t, hq, units_grid k hq.le ht⟩

/-- A whole number of units within the precision of the format is a pattern. -/
theorem exists_units_eq (k : Fmt) (j : Nat) : ∀ c < 2 * 2 ^ (k.p - 1), ∃ b, k.units b = c * 2 ^ j := by
  induction j with
  | zero => exact fun c hc => ⟨_, units_grid k (t := 0) hc.le (.inl rfl)⟩
  | succ j ih =>
    intro c hc
    by_cases hnormal : 2 ^ (k.p - 1) ≤ c
    · exact ⟨_, units_grid k hc.le (.inr hnormal)⟩
    · obtain ⟨b, hb⟩ := ih (2 * c) (by omega)
      exact ⟨b, by rw [hb, pow_succ]; ring⟩

theorem roundUnits_units (hk : k.Usual) {b d : Nat} (hb : b < k.infBits) (hd : 0 < d) :
    k.roundUnits (k.units b * d) d = b := by
  obtain ⟨c, hc, heq⟩ := roundUnits_eq_min hk (k.units b * d) hd
  have hvalue : ((k.units b * d : Nat) / d : ℚ) = k.units b := by
    rw [Nat.cast_mul, mul_div_cancel_right₀ _ (mod_cast hd.ne')]
  have hle := (hc.nearest b).1
  rw [hvalue, sub_self, abs_zero, abs_nonpos_iff, sub_eq_zero, Nat.cast_inj] at hle
  rw [heq, k.units_strictMono.injective hle, min_eq_left hb.le]

/-- A number of the format is its own rounding. -/
theorem datum_pack_roundUnits (hk : k.Usual) (s : Bool) {c j d m : Nat} (hc : c < 2 * 2 ^ (k.p - 1))
    (hlt : c * 2 ^ j < k.units k.infBits) (hd : 0 < d) (hm : m = c * 2 ^ j * d) :
    k.datum (k.pack s (k.roundUnits m d)) = .fin s (c * 2 ^ j) := by
  obtain ⟨b, hb⟩ := k.exists_units_eq j c hc
  have hfin : b < k.infBits := k.units_strictMono.lt_iff_lt.1 (hb ▸ hlt)
  rw [hm, ← hb, roundUnits_units hk hfin hd, datum_pack_fin s hfin]

/-! ### Conversions (R183 to R186) -/

theorem convert_nan {source : Fmt} {a : Nat} (h : source.datum a = .nan) : k.convert source a = none := by
  rw [convert, h]

theorem convert_inf {source : Fmt} {a : Nat} {s : Bool} (h : source.datum a = .inf s) :
    k.convert source a = some (k.pack s k.infBits) := by rw [convert, h]

theorem convert_fin {source : Fmt} {a m : Nat} {s : Bool} (h : source.datum a = .fin s m) :
    k.convert source a = some (k.rne s m (2 ^ source.unitExp)) := by rw [convert, h]

theorem rounds_rne (hk : k.Usual) (s : Bool) (n : Nat) {d : Nat} (hd : 0 < d) :
    k.Rounds (k.rne s n d) (withSign s (n / d)) s := by
  have h := rounds_roundUnits hk s (n * 2 ^ k.unitExp) hd
  rwa [withSign_div_right, Nat.cast_mul, Nat.cast_pow, Nat.cast_ofNat, div_right_comm,
    mul_div_cancel_right₀ _ (by positivity)] at h

theorem rounds_ofInt (hk : k.Usual) (z : Int) : k.Rounds (k.ofInt z) z (decide (z < 0)) := by
  have h := rounds_rne hk (decide (z < 0)) z.natAbs Nat.one_pos
  rwa [Nat.cast_one, div_one, withSign_natAbs fun _ => rfl] at h

theorem datum_double_of_single {v m : Nat} {s : Bool} (h : single.datum v = .fin s m) :
    double.datum (double.rne s m (2 ^ single.unitExp)) = .fin s (m * 2 ^ (double.unitExp - single.unitExp)) := by
  have hlt := lt_units_infBits h
  obtain ⟨-, -, rfl⟩ := datum_eq_fin h
  obtain ⟨c, j, hc, heq⟩ := single.exists_steps (v % single.signBit)
  rw [heq, Nat.mul_assoc, ← pow_add]
  refine datum_pack_roundUnits double_usual s (hc.trans_le (by decide)) ?_ (Nat.two_pow_pos _) ?_
  · rw [pow_add, ← Nat.mul_assoc, ← heq]
    refine (Nat.mul_lt_mul_of_pos_right hlt (Nat.two_pow_pos _)).trans_le ?_
    rw [units_infBits single_usual, units_infBits double_usual, ← pow_add, ← pow_add, ← pow_add]
    exact Nat.pow_le_pow_right (by decide) (by decide)
  · rw [Nat.mul_assoc, Nat.mul_assoc, ← pow_add, ← pow_add]
    rfl

theorem datum_double_ofInt {z : Int} (hz : z.natAbs ≤ 2 ^ 31) :
    double.datum (double.ofInt z) = .fin (decide (z < 0)) (z.natAbs * 2 ^ double.unitExp) := by
  refine datum_pack_roundUnits double_usual _ (hz.trans_lt (by decide)) ?_ Nat.one_pos (Nat.mul_one _).symm
  refine (Nat.mul_le_mul_right _ hz).trans_lt ?_
  rw [units_infBits double_usual, ← pow_add, ← pow_add]
  exact Nat.pow_lt_pow_right (by decide) (by decide)

theorem toWord_toInt32 (k : Fmt) {rnd : Int → Nat → Int} {R : Int → Int → Int → Prop}
    (h : ∀ n {d : Nat}, 0 < d → R n d (rnd n d)) (a : Nat) :
    ToWord (2 ^ k.unitExp) R (k.datum a) (k.toInt32 rnd a) := by
  unfold ToWord toInt32
  cases k.datum a with
  | nan => rfl
  | inf s => rfl
  | fin s m => exact ⟨_, mod_cast h (signed s m) (Nat.two_pow_pos k.unitExp), rfl⟩

/-! ### Generated NaNs (R161) -/

theorem le_or_mod_signBit (raw : Nat) {c : Nat} (hc : c < k.signBit) : c ≤ (raw ||| c) % k.signBit := by
  unfold signBit at hc ⊢
  rw [Nat.or_mod_two_pow, Nat.mod_eq_of_lt hc]
  exact Nat.right_le_or

theorem datum_or_eq_nan {raw c : Nat} (hc : k.infBits < c) (hlt : c < k.signBit) : k.datum (raw ||| c) = .nan :=
  datum_eq_nan (hc.trans_le (le_or_mod_signBit raw hlt))

theorem datum_or_infBits_eq_nan {raw : Nat} (h : raw % 2 ^ (k.p - 1) ≠ 0) : k.datum (raw ||| k.infBits) = .nan := by
  have hfrac : (raw ||| k.infBits) % k.signBit % 2 ^ (k.p - 1) = raw % 2 ^ (k.p - 1) := by
    rw [signBit_eq, Nat.mod_mul_right_mod, Nat.or_mod_two_pow, infBits, Nat.mul_mod_left, Nat.or_zero]
  refine datum_eq_nan (lt_of_le_of_ne (le_or_mod_signBit raw k.infBits_lt_signBit) fun heq => h ?_)
  rw [← hfrac, ← heq, infBits, Nat.mul_mod_left]

end Fmt

theorem datum_nan32 (raw : Word) : single.datum (nan32 raw).toNat = .nan := by
  unfold nan32
  split
  next => exact Fmt.datum_or_eq_nan (k := single) (c := 0x7FC00000) (by decide) (by decide)
  next h =>
    refine Fmt.datum_or_infBits_eq_nan (k := single) fun hzero => h (BitVec.eq_of_toNat_eq ?_)
    simpa [single] using hzero

theorem datum_nan64 (raw : DWord) : double.datum (nan64 raw).toNat = .nan := by
  unfold nan64
  split
  next => exact Fmt.datum_or_eq_nan (k := double) (c := 0x7FF8000000000000) (by decide) (by decide)
  next h =>
    refine Fmt.datum_or_infBits_eq_nan (k := double) fun hzero => h (BitVec.eq_of_toNat_eq ?_)
    simpa [double] using hzero

end Sys2Proof.Machine

/-! PROOFS. The statements of the family 43_float.md: what an instruction does that writes the pattern of a result or
some NaN, and what the arithmetic gives in each case. -/

namespace Sys2Proof.Machine

/-! ### The arithmetic on special data (R161, R162) -/

namespace Fmt

variable {k : Fmt} {a b : Datum} {zeroSign : Bool → Bool → Bool}

theorem addData_nan (h : a = .nan ∨ b = .nan) : k.addData a b = none := by
  rcases h with rfl | rfl
  · rfl
  · cases a <;> rfl

theorem mulData_nan (h : a = .nan ∨ b = .nan) : k.mulData a b = none := by
  rcases h with rfl | rfl
  · rfl
  · cases a <;> rfl

theorem divData_nan (h : a = .nan ∨ b = .nan) : k.divData zeroSign a b = none := by
  rcases h with rfl | rfl
  · rfl
  · cases a <;> rfl

theorem negate_nan (h : a = .nan ∨ b = .nan) : a = .nan ∨ b.negate = .nan :=
  h.imp_right fun hb => by rw [hb]; rfl

variable {s t : Bool} {m n : Nat}

theorem negate_inf (h : a = .inf s) : a.negate = .inf !s := by rw [h]; rfl

theorem negate_inf_not (h : a = .inf !s) : a.negate = .inf s := by rw [h, Datum.negate, Bool.not_not]

theorem negate_fin (h : a = .fin s m) : a.negate = .fin (!s) m := by rw [h]; rfl

theorem addData_inf_opposite (h : a = .inf s) (h' : b = .inf !s) : k.addData a b = none := by simp [h, h', addData]

theorem addData_inf_same (h : a = .inf s) (h' : b = .inf s) : k.addData a b = some (k.pack s k.infBits) := by
  simp [h, h', addData]

theorem addData_inf_fin (h : a = .inf s) (h' : b = .fin t n) : k.addData a b = some (k.pack s k.infBits) := by
  rw [h, h']; rfl

theorem addData_fin_inf (h : a = .fin s m) (h' : b = .inf t) : k.addData a b = some (k.pack t k.infBits) := by
  rw [h, h']; rfl

theorem addData_fin (h : a = .fin s m) (h' : b = .fin t n) : k.addData a b = some (k.addFinite s m t n) := by
  rw [h, h']; rfl

theorem mulData_inf_zero (h : a = .inf s) (h' : b = .fin t 0) : k.mulData a b = none := by rw [h, h']; rfl

theorem mulData_zero_inf (h : a = .fin s 0) (h' : b = .inf t) : k.mulData a b = none := by rw [h, h']; rfl

theorem mulData_inf (h : a = .inf s ∧ b = .fin t (n + 1) ∨ a = .fin s (m + 1) ∧ b = .inf t ∨ a = .inf s ∧ b = .inf t) :
    k.mulData a b = some (k.pack (s != t) k.infBits) := by
  rcases h with ⟨rfl, rfl⟩ | ⟨rfl, rfl⟩ | ⟨rfl, rfl⟩ <;> rfl

theorem mulData_fin (h : a = .fin s m) (h' : b = .fin t n) :
    k.mulData a b = some (k.pack (s != t) (k.roundUnits (m * n) (2 ^ k.unitExp))) := by rw [h, h']; rfl

theorem divData_inf_inf (h : a = .inf s) (h' : b = .inf t) : k.divData zeroSign a b = none := by rw [h, h']; rfl

theorem divData_zero_zero (h : a = .fin s 0) (h' : b = .fin t 0) : k.divData zeroSign a b = none := by rw [h, h']; rfl

theorem divData_zero (h : a = .fin s (m + 1) ∨ a = .inf s) (h' : b = .fin t 0) :
    k.divData zeroSign a b = some (k.pack (zeroSign s t) k.infBits) := by
  rcases h with rfl | rfl <;> rw [h'] <;> rfl

theorem divData_fin_inf (h : a = .fin s m) (h' : b = .inf t) : k.divData zeroSign a b = some (k.pack (s != t) 0) := by
  rw [h, h']; rfl

theorem divData_inf_fin (h : a = .inf s) (h' : b = .fin t (n + 1)) :
    k.divData zeroSign a b = some (k.pack (s != t) k.infBits) := by rw [h, h']; rfl

theorem divData_fin (hn : n ≠ 0) (h : a = .fin s m) (h' : b = .fin t n) :
    k.divData zeroSign a b = some (k.pack (s != t) (k.roundUnits (m * 2 ^ k.unitExp) n)) := by
  rw [h, h']; exact if_neg hn

theorem sqrtData_negative (h : a = .inf true ∨ a = .fin true (m + 1)) : k.sqrtData a = none := by
  rcases h with rfl | rfl <;> rfl

theorem sqrtData_positive (h : a = .fin false (m + 1)) :
    k.sqrtData a = some (k.roundRoot ((m + 1) * 2 ^ k.unitExp)) := by rw [h]; rfl

/-- Plus infinity and the zeros are their own roots. -/
theorem sqrt_self {v : Nat} (hv : v < 2 * k.signBit) (h : k.datum v = .inf false ∨ k.datum v = .fin s 0) :
    k.sqrt v = some v := by
  rcases h with h | h
  · rw [sqrt, h, eq_pack_of_datum_inf hv h]
    simp [sqrtData, pack]
  · obtain ⟨hneg, -, hunits⟩ := datum_eq_fin h
    have hzero : v % k.signBit = 0 := k.units_strictMono.injective (hunits.trans k.units_zero.symm)
    have hpack := pack_negative_mod hv
    rw [hneg, hzero] at hpack
    rw [sqrt, h, ← hpack]
    rfl

end Fmt

/-! ### Writing a pattern (R160, R161) -/

section
variable {i : Instr} {s : State} {fd : FReg} {r : Option Nat}

theorem writesF_setDraws (s : State) (d : Nat) (fd : FReg) (v : Word) : WritesF s ((s.setDraws d).setF fd v) fd v :=
  ⟨fun q => by rw [State.getF_setF, State.setDraws_getF], by intro p hp; cases p <;> simp_all [Part.same]⟩

theorem writesFD_setDraws (s : State) (d : Nat) (fd : FReg) (v : DWord) :
    WritesFD s ((s.setDraws d).setFD fd v) fd v :=
  ⟨fun q => by rw [State.getF_setFD, State.setDraws_getF], by intro p hp; cases p <;> simp_all [Part.same]⟩

theorem putsSingle_putSingle (s : State) (fd : FReg) (r : Option Nat) : PutsSingle s (s.putSingle fd r) fd r := by
  cases r with
  | none => exact ⟨_, datum_nan32 _, writesF_setDraws ..⟩
  | some b => exact writesF_setF s fd _

theorem putsDouble_putDouble (s : State) (fd : FReg) (r : Option Nat) : PutsDouble s (s.putDouble fd r) fd r := by
  cases r with
  | none => exact ⟨_, datum_nan64 _, writesFD_setDraws ..⟩
  | some b => exact writesFD_setFD s fd _

theorem completes_putSingle (h : exec i s = .next (s.putSingle fd r)) : Completes i s fun t => PutsSingle s t fd r :=
  completes_next h (putsSingle_putSingle s fd r)

theorem completes_putDouble (h : exec i s = .next (s.putDouble fd r)) : Completes i s fun t => PutsDouble s t fd r :=
  completes_next h (putsDouble_putDouble s fd r)

theorem writesNaN_of_none (h : Completes i s fun t => PutsSingle s t fd r) (hr : r = none) :
    Completes i s fun t => WritesNaN s t fd := by subst hr; exact h

theorem writesNaND_of_none (h : Completes i s fun t => PutsDouble s t fd r) (hr : r = none) :
    Completes i s fun t => WritesNaND s t fd := by subst hr; exact h

theorem writesF_of_some {b : Nat} {w : Word} (h : Completes i s fun t => PutsSingle s t fd r) (hr : r = some b)
    (hw : BitVec.ofNat 32 b = w) : Completes i s fun t => WritesF s t fd w := by subst hr hw; exact h

theorem writesFD_of_some {b : Nat} {w : DWord} (h : Completes i s fun t => PutsDouble s t fd r) (hr : r = some b)
    (hw : BitVec.ofNat 64 b = w) : Completes i s fun t => WritesFD s t fd w := by subst hr hw; exact h

end

/-- Settles O34: each instruction puts what the model's arithmetic gives for the data of its operands. -/
theorem floatArithmeticCompletes : Obligations.FloatArithmeticCompletes := fun _ _ _ _ =>
  ⟨completes_putSingle rfl, completes_putSingle rfl, completes_putSingle rfl, completes_putSingle rfl,
    completes_putSingle rfl, completes_putDouble rfl, completes_putDouble rfl, completes_putDouble rfl,
    completes_putDouble rfl, completes_putDouble rfl⟩

open Fmt in
/-- Settles O35: in each case the arithmetic of O34 gives no pattern. -/
theorem naNOperandsAndInvalidOperationsGiveNaN : Obligations.NaNOperandsAndInvalidOperationsGiveNaN := by
  intro s fd fs ft
  obtain ⟨addS, subS, mulS, divS, sqrtS, addD, subD, mulD, divD, sqrtD⟩ := floatArithmeticCompletes s fd fs ft
  refine ⟨fun h => ?nanS, fun h => ?nanD, fun h => ?rootS, fun h => ?rootD, fun n m u v => ?invalid⟩
  case nanS =>
    exact ⟨writesNaN_of_none addS (addData_nan h), writesNaN_of_none subS (addData_nan (negate_nan h)),
      writesNaN_of_none mulS (mulData_nan h), writesNaN_of_none divS (divData_nan h)⟩
  case nanD =>
    exact ⟨writesNaND_of_none addD (addData_nan h), writesNaND_of_none subD (addData_nan (negate_nan h)),
      writesNaND_of_none mulD (mulData_nan h), writesNaND_of_none divD (divData_nan h)⟩
  case rootS =>
    exact ⟨writesNaN_of_none sqrtS (by rw [h]; rfl), writesNaND_of_none (completes_putDouble rfl) (convert_nan h)⟩
  case rootD =>
    exact ⟨writesNaND_of_none sqrtD (by rw [h]; rfl), writesNaN_of_none (completes_putSingle rfl) (convert_nan h)⟩
  case invalid =>
    exact ⟨fun h h' => writesNaN_of_none addS (addData_inf_opposite h h'),
      fun h h' => writesNaN_of_none subS (addData_inf_opposite h (negate_inf h')),
      fun h h' => writesNaN_of_none mulS (mulData_inf_zero h h'),
      fun h h' => writesNaN_of_none mulS (mulData_zero_inf h h'),
      fun h h' => writesNaN_of_none divS (divData_inf_inf h h'),
      fun h h' => writesNaN_of_none divS (divData_zero_zero h h'),
      fun h => writesNaN_of_none sqrtS (sqrtData_negative h),
      fun h h' => writesNaND_of_none addD (addData_inf_opposite h h'),
      fun h h' => writesNaND_of_none subD (addData_inf_opposite h (negate_inf h')),
      fun h h' => writesNaND_of_none mulD (mulData_inf_zero h h'),
      fun h h' => writesNaND_of_none mulD (mulData_zero_inf h h'),
      fun h h' => writesNaND_of_none divD (divData_inf_inf h h'),
      fun h h' => writesNaND_of_none divD (divData_zero_zero h h'),
      fun h => writesNaND_of_none sqrtD (sqrtData_negative h)⟩

/-- Settles O41: a move writes the 32 bits that it reads. -/
theorem movesBetweenTheFilesKeepEveryBit : Obligations.MovesBetweenTheFilesKeepEveryBit :=
  fun s _ fs => ⟨completes_setX rfl, completes_next rfl (writesF_setF s fs _)⟩

theorem completes_setF {i : Instr} {s : State} {fd : FReg} {w : Word} {P : Word → Prop}
    (h : exec i s = .next (s.setF fd w)) (hw : P w) : Completes i s fun t => ∃ v, WritesF s t fd v ∧ P v :=
  completes_next h ⟨w, writesF_setF s fd w, hw⟩

/-- Settles O39: the four roundings meet their descriptions, and `toint32` saturates as `ToWord` says. -/
theorem floatToWordRoundsAndSaturates : Obligations.FloatToWordRoundsAndSaturates := by
  intro s fd fs
  exact ⟨completes_setF rfl (Fmt.toWord_toInt32 single isNearestEven_roundHalfEven _),
    completes_setF rfl (Fmt.toWord_toInt32 double isNearestEven_roundHalfEven _),
    completes_setF rfl (Fmt.toWord_toInt32 single isTrunc_truncDiv _),
    completes_setF rfl (Fmt.toWord_toInt32 double isTrunc_truncDiv _),
    completes_setF rfl (Fmt.toWord_toInt32 single isCeil_ceilDiv _),
    completes_setF rfl (Fmt.toWord_toInt32 double isCeil_ceilDiv _),
    completes_setF rfl (Fmt.toWord_toInt32 single isFloor_floorDiv _),
    completes_setF rfl (Fmt.toWord_toInt32 double isFloor_floorDiv _),
    completes_setF rfl (Fmt.toWord_toInt32 single isNearestEven_roundHalfEven _),
    completes_setF rfl (Fmt.toWord_toInt32 double isNearestEven_roundHalfEven _)⟩

/-! ### Infinities and zeros (R162) -/

theorem ofNat_single_inf (s : Bool) :
    BitVec.ofNat 32 (single.pack s single.infBits) = if s = false then 0x7F800000 else 0xFF800000 := by cases s <;> rfl

theorem ofNat_double_inf (s : Bool) :
    BitVec.ofNat 64 (double.pack s double.infBits) = if s = false then 0x7FF0000000000000 else 0xFFF0000000000000 := by
  cases s <;> rfl

theorem ofNat_single_inf_xor (s t : Bool) :
    BitVec.ofNat 32 (single.pack (s != t) single.infBits) = if s = t then 0x7F800000 else 0xFF800000 := by
  rw [ofNat_single_inf]; cases s <;> cases t <;> rfl

theorem ofNat_double_inf_xor (s t : Bool) :
    BitVec.ofNat 64 (double.pack (s != t) double.infBits)
      = if s = t then 0x7FF0000000000000 else 0xFFF0000000000000 := by
  rw [ofNat_double_inf]; cases s <;> cases t <;> rfl

theorem ofNat_single_inf_not (s : Bool) :
    BitVec.ofNat 32 (single.pack (!s) single.infBits) = if s = true then 0x7F800000 else 0xFF800000 := by
  rw [ofNat_single_inf]; cases s <;> rfl

theorem ofNat_double_inf_not (s : Bool) :
    BitVec.ofNat 64 (double.pack (!s) double.infBits)
      = if s = true then 0x7FF0000000000000 else 0xFFF0000000000000 := by
  rw [ofNat_double_inf]; cases s <;> rfl

theorem ofNat_single_zero_xor (s t : Bool) :
    BitVec.ofNat 32 (single.pack (s != t) 0) = if s = t then 0 else 0x80000000 := by cases s <;> cases t <;> rfl

theorem ofNat_double_zero_xor (s t : Bool) :
    BitVec.ofNat 64 (double.pack (s != t) 0) = if s = t then 0 else 0x8000000000000000 := by cases s <;> cases t <;> rfl

theorem ofNat_singleBits (s : State) (r : FReg) : BitVec.ofNat 32 (s.singleBits r) = s.getF r := by
  rw [State.singleBits, BitVec.ofNat_toNat, BitVec.setWidth_eq]

theorem ofNat_doubleBits (s : State) (r : FReg) : BitVec.ofNat 64 (s.doubleBits r) = s.getFD r := by
  rw [State.doubleBits, BitVec.ofNat_toNat, BitVec.setWidth_eq]

open Fmt in
/-- Settles O36: in each case the arithmetic of O34 gives an infinity or a zero of the sign named. -/
theorem floatDivisionAndInfinities : Obligations.FloatDivisionAndInfinities := by
  intro s fd fs ft n m u v
  obtain ⟨addS, subS, mulS, divS, -, addD, subD, mulD, divD, -⟩ := floatArithmeticCompletes s fd fs ft
  refine ⟨fun hrule => ⟨fun h h' => writesF_of_some divS (divData_zero h h') ?_,
      fun h h' => writesFD_of_some divD (divData_zero h h') ?_⟩,
    fun h h' => ⟨writesF_of_some divS (divData_fin_inf h h') (ofNat_single_zero_xor n m),
      writesF_of_some addS (addData_fin_inf h h') (ofNat_single_inf m),
      writesF_of_some subS (addData_fin_inf h (negate_inf h')) (ofNat_single_inf_not m)⟩,
    fun h h' => ⟨writesF_of_some addS (addData_inf_fin h h') (ofNat_single_inf n),
      writesF_of_some subS (addData_inf_fin h (negate_fin h')) (ofNat_single_inf n)⟩,
    fun h h' => writesF_of_some addS (addData_inf_same h h') (ofNat_single_inf n),
    fun h h' => writesF_of_some subS (addData_inf_same h (negate_inf_not h')) (ofNat_single_inf n),
    fun h => writesF_of_some mulS (mulData_inf h) (ofNat_single_inf_xor n m),
    fun h h' => writesF_of_some divS (divData_inf_fin h h') (ofNat_single_inf_xor n m),
    fun h => writesF_of_some (completes_putSingle rfl) (sqrt_self (s.getF fs).isLt h) (ofNat_singleBits s fs),
    fun h h' => ⟨writesFD_of_some divD (divData_fin_inf h h') (ofNat_double_zero_xor n m),
      writesFD_of_some addD (addData_fin_inf h h') (ofNat_double_inf m),
      writesFD_of_some subD (addData_fin_inf h (negate_inf h')) (ofNat_double_inf_not m)⟩,
    fun h h' => ⟨writesFD_of_some addD (addData_inf_fin h h') (ofNat_double_inf n),
      writesFD_of_some subD (addData_inf_fin h (negate_fin h')) (ofNat_double_inf n)⟩,
    fun h h' => writesFD_of_some addD (addData_inf_same h h') (ofNat_double_inf n),
    fun h h' => writesFD_of_some subD (addData_inf_same h (negate_inf_not h')) (ofNat_double_inf n),
    fun h => writesFD_of_some mulD (mulData_inf h) (ofNat_double_inf_xor n m),
    fun h h' => writesFD_of_some divD (divData_inf_fin h h') (ofNat_double_inf_xor n m),
    fun h => writesFD_of_some (completes_putDouble rfl) (sqrt_self (s.getFD fs).isLt h) (ofNat_doubleBits s fs)⟩
  · rw [hrule]; exact ofNat_single_inf_xor n m
  · rw [hrule]; exact (ofNat_double_inf n).trans (by cases n <;> rfl)

/-! ### Rounded results (R160) -/

section
variable {i : Instr} {s : State} {fd : FReg} {r : Option Nat} {b : Nat}

theorem completes_pattern_single (P : Nat → Prop) (h : Completes i s fun t => PutsSingle s t fd r) (hr : r = some b)
    (hb : b < 2 * single.signBit) (hP : P b) : Completes i s fun t => ∃ w : Word, WritesF s t fd w ∧ P w.toNat := by
  subst hr
  obtain ⟨t, hexec, hw⟩ := h
  have hbits : (BitVec.ofNat 32 b).toNat = b := Nat.mod_eq_of_lt hb
  exact ⟨t, hexec, _, hw, hbits.symm ▸ hP⟩

theorem completes_pattern_double (P : Nat → Prop) (h : Completes i s fun t => PutsDouble s t fd r) (hr : r = some b)
    (hb : b < 2 * double.signBit) (hP : P b) : Completes i s fun t => ∃ w : DWord, WritesFD s t fd w ∧ P w.toNat := by
  subst hr
  obtain ⟨t, hexec, hw⟩ := h
  have hbits : (BitVec.ofNat 64 b).toNat = b := Nat.mod_eq_of_lt hb
  exact ⟨t, hexec, _, hw, hbits.symm ▸ hP⟩

variable {q : ℚ} {neg : Bool}

theorem completes_rounded_single (h : Completes i s fun t => PutsSingle s t fd r) (hr : r = some b)
    (hb : single.Rounds b q neg) : Completes i s fun t =>
      ∃ w : Word, WritesF s t fd w ∧ IsRounded single w.toNat q ∧ single.negative w.toNat = neg :=
  completes_pattern_single (fun w => IsRounded single w q ∧ single.negative w = neg) h hr hb.bound
    ⟨hb.isRounded, hb.negative⟩

theorem completes_rounded_double (h : Completes i s fun t => PutsDouble s t fd r) (hr : r = some b)
    (hb : double.Rounds b q neg) : Completes i s fun t =>
      ∃ w : DWord, WritesFD s t fd w ∧ IsRounded double w.toNat q ∧ double.negative w.toNat = neg :=
  completes_pattern_double (fun w => IsRounded double w q ∧ double.negative w = neg) h hr hb.bound
    ⟨hb.isRounded, hb.negative⟩

end

open Fmt in
/-- Settles O37: the exact result in units goes through one rounding, whose pattern is the nearest. -/
theorem finiteArithmeticRoundsOnceToNearestEven : Obligations.FiniteArithmeticRoundsOnceToNearestEven := by
  intro s fd fs ft n m u v
  obtain ⟨addS, subS, mulS, divS, -, addD, subD, mulD, divD, -⟩ := floatArithmeticCompletes s fd fs ft
  refine ⟨fun h h' => ⟨completes_rounded_single addS (addData_fin h h') (rounds_addFinite single_usual n m u v),
      completes_rounded_single subS (addData_fin h (negate_fin h')) (rounds_subFinite single_usual n m u v),
      completes_rounded_single mulS (mulData_fin h h') (rounds_mul single_usual n m u v),
      fun hv => completes_rounded_single divS (divData_fin hv h h')
        (rounds_div single_usual n m u (Nat.pos_of_ne_zero hv))⟩,
    fun h h' => ⟨completes_rounded_double addD (addData_fin h h') (rounds_addFinite double_usual n m u v),
      completes_rounded_double subD (addData_fin h (negate_fin h')) (rounds_subFinite double_usual n m u v),
      completes_rounded_double mulD (mulData_fin h h') (rounds_mul double_usual n m u v),
      fun hv => completes_rounded_double divD (divData_fin hv h h')
        (rounds_div double_usual n m u (Nat.pos_of_ne_zero hv))⟩⟩

open Fmt in
/-- Settles O38: the real root lies between the midpoints to the neighbours of the pattern the model rounds it to. -/
theorem squareRootsRoundOnceToNearestEven : Obligations.SquareRootsRoundOnceToNearestEven := by
  intro s fd fs u
  obtain ⟨-, -, -, -, sqrtS, -, -, -, -, sqrtD⟩ := floatArithmeticCompletes s fd fs fs
  refine ⟨fun h => ?_, fun h => ?_⟩
  · obtain ⟨hlt, hspec⟩ := isRoot_roundRoot single_usual (Nat.succ_ne_zero u) (lt_units_infBits h)
    obtain ⟨t, hexec, w, hw, lo, m, hi, hroot⟩ :=
      completes_pattern_single (single.IsRoot · (u + 1)) sqrtS (sqrtData_positive h)
        (hlt.trans (by decide)) hspec
    exact ⟨t, hexec, w, lo, m, hi, hw, hroot⟩
  · obtain ⟨hlt, hspec⟩ := isRoot_roundRoot double_usual (Nat.succ_ne_zero u) (lt_units_infBits h)
    obtain ⟨t, hexec, w, hw, lo, m, hi, hroot⟩ :=
      completes_pattern_double (double.IsRoot · (u + 1)) sqrtD (sqrtData_positive h)
        (hlt.trans (by decide)) hspec
    exact ⟨t, hexec, w, lo, m, hi, hw, hroot⟩

open Fmt in
/-- Settles O40: to single by one rounding, and to double exactly, since the precision and the exponents of double hold
every single and every Word. -/
theorem conversionsBetweenNumberFormats : Obligations.ConversionsBetweenNumberFormats := by
  intro s fd fs
  refine ⟨?cvtSD, completes_rounded_single (completes_putSingle rfl) rfl (rounds_ofInt single_usual _), ?cvtDS, ?cvtDW⟩
  case cvtSD =>
    have h : Completes (.cvtSD fd fs) s fun t => PutsSingle s t fd (single.convert double (s.doubleBits fs)) :=
      completes_putSingle rfl
    cases hd : s.datumD fs with
    | nan => exact writesNaN_of_none h (convert_nan hd)
    | inf n => exact writesF_of_some h (convert_inf hd) ((ofNat_single_inf n).trans (by cases n <;> rfl))
    | fin n m =>
      refine completes_rounded_single h (convert_fin hd) ?_
      rw [unitValue_eq, withSign_div_right]
      exact mod_cast rounds_rne single_usual n m (Nat.two_pow_pos double.unitExp)
  case cvtDS =>
    have h : Completes (.cvtDS fd fs) s fun t => PutsDouble s t fd (double.convert single (s.singleBits fs)) :=
      completes_putDouble rfl
    cases hd : s.datumS fs with
    | nan => exact writesNaND_of_none h (convert_nan hd)
    | inf n =>
      exact completes_pattern_double (fun w => double.datum w = .inf n) h (convert_inf hd)
        (pack_lt n double.infBits_lt_signBit) (datum_pack_inf n)
    | fin n m =>
      exact completes_pattern_double (fun w => double.datum w = .fin n (m * 2 ^ (double.unitExp - single.unitExp))) h
        (convert_fin hd) (rounds_rne double_usual n m (Nat.two_pow_pos _)).bound (datum_double_of_single hd)
  case cvtDW =>
    have hz : (s.getF fs).toInt.natAbs ≤ 2 ^ 31 := by
      have hlow := (s.getF fs).le_toInt
      have hupp := (s.getF fs).toInt_lt
      omega
    exact completes_pattern_double (fun w => double.datum w = .fin (decide ((s.getF fs).toInt < 0))
        ((s.getF fs).toInt.natAbs * 2 ^ double.unitExp)) (completes_putDouble rfl) rfl
      (rounds_ofInt double_usual _).bound (datum_double_ofInt hz)

end Sys2Proof.Machine

/-! PROOFS. The statements of the family 44_loadstore.md: aligned accesses by the three answers of `memRead` and
`memWrite`, partial-word accesses by the bytes of the merged register and of the stored field. -/

namespace Sys2Proof.Machine

/-! ### The shapes of the rules: an aligned load, an aligned store (20_memory.md R47 to R49) -/

section
variable {i : Instr} {s : State} {ea : Word} {n : Nat}

theorem loads_of_exec {f : Nat → State} {P : State → Nat → Prop} (h : exec i s = s.complete (s.memRead ea n) f)
    (hP : ∀ v, P (f v) v) : Loads i s ea n P := by
  refine ⟨fun ha => ?misaligned, fun ha hr => ?out, fun ha hr => ?ok⟩
  case misaligned => exact completes_next (by rw [h, memRead_misaligned ha, complete_error]) (raises_takeFault ..)
  case out => exact completes_next (by rw [h, memRead_out ha hr, complete_error]) (raises_takeFault ..)
  case ok => exact completes_next (by rw [h, memRead_ok ha hr, complete_ok]) (hP _)

theorem storesTo_of_exec {v : Nat} (h : exec i s = s.store ea n v) : StoresTo i s ea n v := by
  refine ⟨fun ha => ?misaligned, fun ha hw => ?out, fun ha hw => ?ok⟩
  case misaligned =>
    exact completes_next (by rw [h, State.store, memWrite_misaligned ha, complete_error]) (raises_takeFault ..)
  case out => exact completes_next (by rw [h, State.store, memWrite_out ha hw, complete_error]) (raises_takeFault ..)
  case ok => exact completes_next (by rw [h, State.store, memWrite_ok ha hw, complete_ok, id]) (storesAt_putBytes hw)

end

/-! ### Aligned accesses (R201 to R208, R213 to R216) -/

/-- Settles O42: each load is one aligned read whose value, extended, is written to `rt`. -/
theorem integerLoadsReadAndExtend : Obligations.IntegerLoadsReadAndExtend :=
  fun s rt _ _ => ⟨loads_of_exec rfl fun _ => writesX_setX s rt _, loads_of_exec rfl fun _ => writesX_setX s rt _,
    loads_of_exec rfl fun _ => writesX_setX s rt _, loads_of_exec rfl fun _ => writesX_setX s rt _,
    loads_of_exec rfl fun _ => writesX_setX s rt _⟩

/-- Settles O43: each store is one aligned write of the value of `rt`, cut to its width. -/
theorem integerStoresReplaceExactlyTheirBytes : Obligations.IntegerStoresReplaceExactlyTheirBytes :=
  fun _ _ _ _ => ⟨storesTo_of_exec rfl, storesTo_of_exec rfl, storesTo_of_exec rfl⟩

/-- Settles O44: each is one aligned access of 4 or 8 bytes, between memory and `f[ft]` or the pair. -/
theorem floatLoadsAndStoresMoveRawBits : Obligations.FloatLoadsAndStoresMoveRawBits :=
  fun s ft _ _ => ⟨loads_of_exec rfl fun _ => writesF_setF s ft _, storesTo_of_exec rfl,
    loads_of_exec rfl fun _ => writesFD_setFD s ft _, storesTo_of_exec rfl⟩

/-! ### The bytes of a number

Byte `j` of a number `v`, the least significant first, is `BitVec.ofNat 8 (v / 256 ^ j)`. -/

theorem two_pow_eight_mul (m : Nat) : 2 ^ (8 * m) = 256 ^ m := by rw [pow_mul]; rfl

theorem regByte_eq_ofNat (w : Word) (j : Nat) : regByte w j = BitVec.ofNat 8 (w.toNat / 256 ^ j) := by
  apply BitVec.eq_of_toNat_eq
  simp [regByte, Nat.shiftRight_eq_div_pow, two_pow_eight_mul]

/-- The low `m` bytes of a number have its bytes. -/
theorem ofNat_mod_div {m j : Nat} (v : Nat) (h : j < m) :
    BitVec.ofNat 8 (v % 256 ^ m / 256 ^ j) = BitVec.ofNat 8 (v / 256 ^ j) := by
  obtain ⟨d, rfl⟩ := Nat.exists_eq_add_of_lt h
  apply BitVec.eq_of_toNat_eq
  rw [BitVec.toNat_ofNat, BitVec.toNat_ofNat, add_assoc, pow_add, Nat.mod_mul_right_div_self, pow_succ']
  exact Nat.mod_mul_right_mod _ _ _

/-- The bytes of `u`, which has `m`, then those of `v`. -/
theorem ofNat_append_div {m u : Nat} (v j : Nat) (hu : u < 256 ^ m) :
    BitVec.ofNat 8 ((v * 256 ^ m + u) / 256 ^ j)
      = if j < m then BitVec.ofNat 8 (u / 256 ^ j) else BitVec.ofNat 8 (v / 256 ^ (j - m)) := by
  split
  case isTrue h => rw [← ofNat_mod_div _ h, Nat.mul_add_mod_of_lt hu]
  case isFalse h =>
    obtain ⟨d, rfl⟩ := Nat.exists_eq_add_of_le (not_lt.mp h)
    rw [Nat.add_sub_cancel_left, pow_add, ← Nat.div_div_eq_div_mul, mul_comm v,
      Nat.mul_add_div (Nat.pow_pos (by omega)), Nat.div_eq_of_lt hu, add_zero]

theorem regByte_ofNat {v j : Nat} (hj : j < 4) : regByte (BitVec.ofNat 32 v) j = BitVec.ofNat 8 (v / 256 ^ j) := by
  rw [regByte_eq_ofNat, BitVec.toNat_ofNat, show 2 ^ 32 = 256 ^ 4 from rfl, ofNat_mod_div v hj]

/-! ### The bytes of a partial-word access (R209 to R212) -/

theorem regByte_mergeHigh {j : Nat} (old : Word) (n v : Nat) (hj : j < 4) : regByte (mergeHigh old n v) j
    = if 4 - n ≤ j then BitVec.ofNat 8 (v / 256 ^ (j - (4 - n))) else regByte old j := by
  rw [mergeHigh, two_pow_eight_mul, regByte_ofNat hj, ofNat_append_div _ _ (Nat.mod_lt _ (Nat.pow_pos (by omega))),
    ← ite_not]
  refine if_ctx_congr not_lt (fun _ => rfl) fun h => ?_
  rw [ofNat_mod_div _ (not_le.mp h), regByte_eq_ofNat]

theorem regByte_mergeLow {n v j : Nat} (old : Word) (hv : v < 256 ^ n) (hj : j < 4) : regByte (mergeLow old n v) j
    = if j < n then BitVec.ofNat 8 (v / 256 ^ j) else regByte old j := by
  rw [mergeLow, two_pow_eight_mul, regByte_ofNat hj, ofNat_append_div _ _ hv]
  refine if_ctx_congr Iff.rfl (fun _ => rfl) fun h => ?_
  rw [regByte_eq_ofNat, Nat.div_div_eq_div_mul, ← pow_add, Nat.add_sub_cancel' (not_lt.mp h)]

theorem ofNat_highPart_div (w : Word) (n j : Nat) :
    BitVec.ofNat 8 (highPart w n / 256 ^ j) = regByte w (4 - n + j) := by
  rw [highPart, two_pow_eight_mul, Nat.div_div_eq_div_mul, ← pow_add, regByte_eq_ofNat]

theorem ofNat_lowPart_div {n j : Nat} (w : Word) (h : j < n) :
    BitVec.ofNat 8 (lowPart w n / 256 ^ j) = regByte w j := by
  rw [lowPart, two_pow_eight_mul, ofNat_mod_div _ h, regByte_eq_ofNat]

theorem splitLow_composeLow (bs : List Byte) : splitLow bs.length (composeLow bs) = bs := by
  induction bs with
  | nil => rfl
  | cons b bs ih =>
    have hb := b.isLt
    have hhead : BitVec.ofNat 8 (b.toNat + 256 * composeLow bs) = b :=
      BitVec.eq_of_toNat_eq (by rw [BitVec.toNat_ofNat]; omega)
    have htail : (b.toNat + 256 * composeLow bs) / 256 = composeLow bs := by omega
    rw [composeLow, List.length_cons, splitLow, hhead, htail, ih]

/-- The value of bytes has those bytes, in either byte order. -/
theorem split_compose (e : Endian) (bs : List Byte) : split e bs.length (compose e bs) = bs := by
  cases e with
  | little => exact splitLow_composeLow bs
  | big => simpa [split, compose] using congrArg List.reverse (splitLow_composeLow bs.reverse)

theorem valueOf_lt (s : State) (a n : Nat) : s.valueOf a n < 256 ^ n := by
  have h := compose_split s.cfg.endian (s.bytesAt a n).length (compose s.cfg.endian (s.bytesAt a n))
  rw [split_compose, compose_bytesAt, length_bytesAt] at h
  exact h ▸ Nat.mod_lt _ (Nat.pow_pos (by omega))

/-- The bytes of a value that is read are the bytes that stand there, in either byte order. -/
theorem byteOf_valueOf {n k : Nat} (s : State) (a : Nat) (h : k < n) :
    byteOf s.cfg.endian n (s.valueOf a n) k = s.byteAt (a + k) := by
  have hsplit := split_compose s.cfg.endian (s.bytesAt a n)
  rw [compose_bytesAt, length_bytesAt] at hsplit
  rw [← getD_split _ _ _ _ h, hsplit, bytesAt_eq_map, List.getD_eq_getElem _ _ (by simpa using h)]
  simp

theorem ofNat_valueOf_div_little {s : State} {n j : Nat} (a : Nat) (he : s.cfg.endian = .little) (h : j < n) :
    BitVec.ofNat 8 (s.valueOf a n / 256 ^ j) = s.byteAt (a + j) := by
  rw [← byteOf_valueOf s a h, he, byteOf]

theorem ofNat_valueOf_div_big {s : State} {n j : Nat} (a : Nat) (he : s.cfg.endian = .big) (h : j < n) :
    BitVec.ofNat 8 (s.valueOf a n / 256 ^ j) = s.byteAt (a + (n - 1 - j)) := by
  rw [← byteOf_valueOf s a (show n - 1 - j < n by omega), he, byteOf, show n - 1 - (n - 1 - j) = j by omega]

/-! ### The shapes of the rules: a partial-word load, a partial-word store (20_memory.md R50) -/

section
variable {i : Instr} {s : State} {rt : Reg} {ea : Word} {lo n : Nat} {part : Nat × Nat}

theorem loadsPart_of_exec {merge : Word → Nat → Nat → Word} {G : Nat → Byte}
    (h : exec i s = s.loadPart rt ea part merge) (hpart : part = (lo, n))
    (hG : ∀ j < 4, regByte (merge (s.getX rt) n (s.valueOf lo n)) j = G j) : LoadsPart i s rt lo n G := by
  subst hpart
  refine ⟨fun hr => ?ok, fun hr => ?out⟩
  case ok =>
    exact completes_next (by rw [h, State.loadPart, readPart_ok hr, complete_ok]) ⟨_, writesX_setX .., hG⟩
  case out =>
    exact completes_next (by rw [h, State.loadPart, readPart_out hr, complete_error]) ⟨_, raises_takeFault ..⟩

theorem storesPart_of_exec {field : Word → Nat → Nat} {wa : Nat} {M : Nat → Byte}
    (h : exec i s = s.storePart rt ea part field) (hpart : part = (lo, n))
    (hM : ∀ j < n, byteOf s.cfg.endian n (field (s.getX rt) n) j = M (lo + j - wa)) : StoresPart i s wa lo n M := by
  subst hpart
  refine ⟨fun hw => ?ok, fun hw => ?out⟩
  case ok =>
    obtain ⟨hbytes, honly⟩ := storesAt_putBytes (v := field (s.getX rt) n) hw
    refine completes_next (by rw [h, State.storePart, writePart_ok hw, complete_ok, id]) ⟨fun a => ?_, honly⟩
    rw [hbytes]
    refine if_ctx_congr Iff.rfl (fun ⟨hlo, hhi⟩ => ?_) fun _ => rfl
    rw [hM _ (by omega), Nat.add_sub_cancel' hlo]
  case out =>
    exact completes_next (by rw [h, State.storePart, writePart_out hw, complete_error]) ⟨_, raises_takeFault ..⟩

end

/-! ### Partial-word accesses (R209 to R212) -/

/-- Settles O45: `lwl` puts the bytes it reads above those it keeps and `lwr` below, so each byte of the merged register
is a byte that was read or the byte that stood there. -/
theorem partialLoadsMergeByTheByteTables : Obligations.PartialLoadsMergeByTheByteTables := by
  rintro s rt base offset ea k rfl rfl
  refine ⟨fun he => ⟨loadsPart_of_exec rfl (by rw [he]; rfl) fun j hj => ?lwlLittle,
      loadsPart_of_exec rfl (by rw [he]; rfl) fun j hj => ?lwrLittle⟩,
    fun he => ⟨loadsPart_of_exec rfl (by rw [he]; rfl) fun j hj => ?lwlBig,
      loadsPart_of_exec rfl (by rw [he]; rfl) fun j hj => ?lwrBig⟩⟩
  case lwlLittle =>
    rw [regByte_mergeHigh _ _ _ hj]
    exact if_ctx_congr (by omega) (fun h => (ofNat_valueOf_div_little _ he (by omega)).trans (congrArg _ (by omega)))
      fun _ => rfl
  case lwrLittle =>
    rw [regByte_mergeLow _ (valueOf_lt ..) hj]
    exact if_ctx_congr Iff.rfl (ofNat_valueOf_div_little _ he) fun _ => rfl
  case lwlBig =>
    rw [regByte_mergeHigh _ _ _ hj]
    exact if_ctx_congr (by omega) (fun h => (ofNat_valueOf_div_big _ he (by omega)).trans (congrArg _ (by omega)))
      fun _ => rfl
  case lwrBig =>
    rw [regByte_mergeLow _ (valueOf_lt ..) hj]
    exact if_ctx_congr (by omega) (fun h => (ofNat_valueOf_div_big _ he (by omega)).trans (congrArg _ (by omega)))
      fun _ => rfl

/-- Settles O46: `swl` stores the high bytes of `rt` and `swr` the low ones, in the byte order of the configuration. -/
theorem partialStoresReplaceByTheByteTables : Obligations.PartialStoresReplaceByTheByteTables := by
  rintro s rt base offset ea k rfl rfl
  refine ⟨fun he => ⟨storesPart_of_exec rfl (by rw [he]; rfl) fun j hj => ?swlLittle,
      storesPart_of_exec rfl (by rw [he]; rfl) fun j hj => ?swrLittle⟩,
    fun he => ⟨storesPart_of_exec rfl (by rw [he]; rfl) fun j hj => ?swlBig,
      storesPart_of_exec rfl (by rw [he]; rfl) fun j hj => ?swrBig⟩⟩
  case swlLittle =>
    rw [he, byteOf, ofNat_highPart_div]
    exact congrArg _ (by omega)
  case swrLittle =>
    rw [he, byteOf, ofNat_lowPart_div _ hj]
    exact congrArg _ (by omega)
  case swlBig =>
    rw [he, byteOf, ofNat_highPart_div]
    exact congrArg _ (by omega)
  case swrBig =>
    rw [he, byteOf, ofNat_lowPart_div _ (by omega)]
    exact congrArg _ (by omega)

/-! ### The pair `lwr`, `lwl` (R209, R210) -/

theorem Completes.imp {i : Instr} {s : State} {P Q : State → Prop} (h : Completes i s P) (hPQ : ∀ t, P t → Q t) :
    Completes i s Q := by
  obtain ⟨t, hexec, ht⟩ := h
  exact ⟨t, hexec, hPQ t ht⟩

/-- Of two writes of one register the second stands. -/
theorem WritesX.trans {s t u : State} {r : Reg} {v w : Word} (h : WritesX s t r v) (h' : WritesX t u r w) :
    WritesX s u r w := by
  refine ⟨fun q => ?_, fun p hp => Part.same_trans (h.2 p hp) (h'.2 p hp)⟩
  rw [h'.1, h.1]
  split <;> rfl

/-- A write of `x[0]` is discarded, whatever its value (10_state.md R11). -/
theorem WritesX.zero {s t : State} {v : Word} (w : Word) (h : WritesX s t 0 v) : WritesX s t 0 w := by
  refine ⟨fun q => ?_, h.2⟩
  rw [h.1, if_neg fun hq => hq.2 hq.1, if_neg fun hq => hq.2 hq.1]

theorem lt_of_readAdmitted {s : State} {a n : Nat} (h : s.readAdmitted a n = true) : a + n ≤ 2 ^ 32 := by
  simp only [State.readAdmitted, Bool.and_eq_true, decide_eq_true_eq] at h
  exact h.1

theorem toNat_addressOf_add {s : State} {base : Reg} {n : Int} (d : Nat)
    (h : (addressOf s base n).toNat + d < 2 ^ 32) :
    (addressOf s base (n + d)).toNat = (addressOf s base n).toNat + d := by
  simp only [addressOf, W, BitVec.toNat_ofInt] at h ⊢
  omega

/-- The Word whose bytes stand at `a` is the Word that is read there. -/
theorem eq_ofNat_valueOf {s : State} {a : Nat} {w : Word} (he : s.cfg.endian = .little)
    (h : ∀ j < 4, regByte w j = s.byteAt (a + j)) : w = BitVec.ofNat 32 (s.valueOf a 4) := by
  rw [valueOf_of_byteAt (v := w.toNat) fun k hk => by rw [← h k hk, he, byteOf, regByte_eq_ofNat]]
  exact BitVec.eq_of_toNat_eq (by rw [BitVec.toNat_ofNat]; have := w.isLt; omega)

/-- Settles O23: of the four bytes from the effective address, `lwr` loads those of its aligned word into the low end of
`rt`, and `lwl` the rest, in the next aligned word, into the high end (or all four, when they are one aligned word). -/
theorem theLwrLwlPairLoadsAnUnalignedWord : Obligations.TheLwrLwlPairLoadsAnUnalignedWord := by
  intro s rt base n he hne hread
  generalize ha : (addressOf s base n).toNat = a at hread ⊢
  have hfirst : s.readAdmitted a (4 - a % 4) = true := readAdmitted_sub (hread _ (.inl rfl)) (by omega) (by omega)
  have hsecond : s.readAdmitted (a + 3 - (a + 3) % 4) ((a + 3) % 4 + 1) = true :=
    readAdmitted_sub (hread _ (.inr rfl)) (by omega) (by omega)
  obtain ⟨-, hlwr, -⟩ := (partialLoadsMergeByTheByteTables s rt base n a _ ha.symm rfl).1 he
  refine (hlwr hfirst).imp ?_
  rintro t ⟨v, hv, hvbytes⟩
  obtain ⟨hcfg, htext⟩ := hv.2 .launch (by decide)
  have hbyte : ∀ b, t.byteAt b = s.byteAt b := hv.2 .memory (by decide)
  have haddr : (addressOf t base (n + 3)).toNat = a + 3 := by
    have hbase : t.getX base = s.getX base := (hv.1 base).trans (if_neg fun h => hne h.1.symm)
    have hspace := lt_of_readAdmitted hsecond
    rw [addressOf, hbase, ← ha]
    exact toNat_addressOf_add 3 (by omega)
  obtain ⟨⟨hlwl, -⟩, -⟩ := (partialLoadsMergeByTheByteTables t rt base (n + 3) _ _ haddr.symm rfl).1 (hcfg ▸ he)
  refine (hlwl (State.readAdmitted_congr hcfg htext _ _ ▸ hsecond)).imp ?_
  rintro u ⟨w, hw, hwbytes⟩
  by_cases hrt : rt = 0
  · subst hrt
    exact (hv.trans hw).zero _
  have hbytes : ∀ j < 4, regByte w j = s.byteAt (a + j) := by
    intro j hj
    by_cases hnext : 3 - (a + 3) % 4 ≤ j
    · calc regByte w j = t.byteAt _ := (hwbytes j hj).trans (if_pos hnext)
        _ = s.byteAt (a + j) := by rw [hbyte]; congr 1; omega
    · calc regByte w j = regByte (t.getX rt) j := (hwbytes j hj).trans (if_neg hnext)
        _ = regByte v j := by rw [(hv.1 rt).trans (if_pos ⟨rfl, hrt⟩)]
        _ = s.byteAt (a + j) := (hvbytes j hj).trans (if_pos (by omega))
  exact eq_ofNat_valueOf he hbytes ▸ hv.trans hw

end Sys2Proof.Machine

/-! PROOFS. The statements of the family 45_branch_jump.md: what is done only under a condition (branches and moves), the
jumps with and without a link, and the floating compares by the places of their operands. -/

namespace Sys2Proof.Machine

/-! ### Conditional branches (R231 to R236, R249, R250) and conditional moves (R251 to R254) -/

section
variable {i : Instr} {s : State} {b : Bool} {c : Prop}

/-- What an instruction does only when the Boolean it tests is true: here to reach the state `t`. -/
theorem completes_if {t : State} {P : State → Prop} (h : exec i s = .next (if b then t else s)) (hb : b = true ↔ c)
    (ht : P t) : (c → Completes i s P) ∧ (¬ c → Completes i s fun t => Unchanged s t) := by
  refine ⟨fun hc => ?holds, fun hc => ?fails⟩
  case holds => exact completes_next (h.trans (by rw [if_pos (hb.mpr hc)])) ht
  case fails => exact completes_next (h.trans (by rw [if_neg (mt hb.mp hc)])) (unchanged_self s)

theorem branchesIf_of_exec {target : Word} (h : exec i s = s.branchIf b target) (hb : b = true ↔ c) :
    BranchesIf i s c target := completes_if h hb (jumpsTo_setPc s target)

theorem movesIf_of_exec {rd rs : Reg} (h : exec i s = s.moveIf b rd rs) (hb : b = true ↔ c) : MovesIf i s c rd rs :=
  completes_if h hb (writesX_setX s rd (s.getX rs))

end

/-- Settles O47: the Boolean each branch tests is the truth of its condition. -/
theorem conditionalBranches : Obligations.ConditionalBranches := fun _ _ _ _ _ =>
  ⟨branchesIf_of_exec rfl beq_iff_eq, branchesIf_of_exec rfl bne_iff_ne, branchesIf_of_exec rfl decide_eq_true_iff,
    branchesIf_of_exec rfl decide_eq_true_iff, branchesIf_of_exec rfl decide_eq_true_iff,
    branchesIf_of_exec rfl decide_eq_true_iff, branchesIf_of_exec rfl Iff.rfl,
    branchesIf_of_exec rfl Bool.not_eq_eq_eq_not⟩

/-- Settles O50: the Boolean each move tests is the truth of its condition. -/
theorem conditionalMoves : Obligations.ConditionalMoves := fun _ _ _ _ _ =>
  ⟨movesIf_of_exec rfl Iff.rfl, movesIf_of_exec rfl Bool.not_eq_eq_eq_not, movesIf_of_exec rfl bne_iff_ne,
    movesIf_of_exec rfl beq_iff_eq⟩

/-! ### Jumps (R237 to R241) -/

section
variable {i : Instr} {s : State} {a : Word}

theorem completes_setPc (h : exec i s = .next (s.setPc a)) : Completes i s fun t => JumpsTo s t a :=
  completes_next h (jumpsTo_setPc s a)

/-- The target `a` is a Word of the state before the link is written, so `jalr` jumps to the old value of `rs`. -/
theorem completes_link {r : Reg} (h : exec i s = .next ((s.setX r s.link).setPc a)) :
    Completes i s fun t => t.pc = a ∧ (∀ q, t.getX q = if q = r ∧ q ≠ 0 then s.pc else s.getX q)
      ∧ OnlyChanges [.x, .pc] s t := by
  obtain ⟨hlink, hx⟩ := writesX_setX s r s.link
  obtain ⟨hpc, hjump⟩ := jumpsTo_setPc (s.setX r s.link) a
  exact completes_next h ⟨hpc, fun q => (State.setPc_getX ..).trans (hlink q), hx.trans hjump⟩

end

theorem eq_ra_and_ne_zero_iff (q : Reg) : q = 31 ∧ q ≠ 0 ↔ q = 31 :=
  and_iff_left_of_imp fun h => by rw [h]; decide

/-- Settles O48: a jump writes pc alone, and a linking one is the write of the link and then the jump. -/
theorem jumpsAndLinks : Obligations.JumpsAndLinks := by
  intro s rd rs target
  refine ⟨completes_setPc rfl, completes_setPc rfl, ?jal, completes_link rfl⟩
  have hlink : Completes (.jal target) s _ := completes_link rfl
  simpa only [eq_ra_and_ne_zero_iff] using hlink

/-! ### The order of the extended reals (R242) -/

section
variable {r : Int × Int → Int × Int → Prop} {a b : Datum}

theorem ordered_iff {p q : Int × Int} (hp : a.place = some p) (hq : b.place = some q) : Ordered r a b ↔ r p q := by
  simp [Ordered, hp, hq]

/-- A comparison that answers false where an operand is a NaN agrees with any relation of places. -/
theorem false_iff_ordered_of_nan (h : a = .nan ∨ b = .nan) : false = true ↔ Ordered r a b := by
  refine iff_of_false Bool.false_ne_true ?_
  rintro ⟨p, q, hp, hq, -⟩
  rcases h with rfl | rfl
  · cases hp
  · cases hq

theorem ordered_or {r' : Int × Int → Int × Int → Prop} :
    Ordered (fun p q => r p q ∨ r' p q) a b ↔ Ordered r a b ∨ Ordered r' a b := by
  simp only [Ordered, and_or_left, exists_or]

end

/-- Two infinities are equal by their signs, two finite data by their signed magnitudes, and no infinity is finite. -/
theorem eq_iff_ordered (a b : Datum) : a.eq b = true ↔ Ordered (fun p q => p = q) a b := by
  cases a with
  | nan => exact false_iff_ordered_of_nan (.inl rfl)
  | inf n =>
    cases b with
    | nan => exact false_iff_ordered_of_nan (.inr rfl)
    | inf m => rw [ordered_iff rfl rfl]; cases n <;> cases m <;> decide
    | fin m v => rw [ordered_iff rfl rfl]; cases n <;> simp [Datum.eq]
  | fin n u =>
    cases b with
    | nan => exact false_iff_ordered_of_nan (.inr rfl)
    | inf m => rw [ordered_iff rfl rfl]; cases m <;> simp [Datum.eq]
    | fin m v => rw [ordered_iff rfl rfl]; simp [Datum.eq, signed]

/-- With an infinity the first coordinates decide, and between two finite data the signed magnitudes. -/
theorem lt_iff_ordered (a b : Datum) : a.lt b = true ↔ Ordered placeLt a b := by
  cases a with
  | nan => exact false_iff_ordered_of_nan (.inl rfl)
  | inf n =>
    cases b with
    | nan => exact false_iff_ordered_of_nan (.inr rfl)
    | inf m => rw [ordered_iff rfl rfl]; cases n <;> cases m <;> simp [Datum.lt, placeLt]
    | fin m v => rw [ordered_iff rfl rfl]; cases n <;> simp [Datum.lt, placeLt]
  | fin n u =>
    cases b with
    | nan => exact false_iff_ordered_of_nan (.inr rfl)
    | inf m => rw [ordered_iff rfl rfl]; cases m <;> simp [Datum.lt, placeLt]
    | fin m v => rw [ordered_iff rfl rfl]; exact decide_eq_true_iff.trans (by simp [placeLt, signed])

theorem le_iff_ordered (a b : Datum) : a.le b = true ↔ Ordered (fun p q => placeLt p q ∨ p = q) a b := by
  rw [Datum.le, Bool.or_eq_true, lt_iff_ordered, eq_iff_ordered, ordered_or]

/-! ### Floating compares (R243 to R248) -/

theorem compares_of_exec {i : Instr} {s : State} {k : CC} {b : Bool} {c : Prop} (h : exec i s = .next (s.setCC k b))
    (hb : b = true ↔ c) : Compares i s k c := by
  have hflag : Completes i s fun t => WritesFlag s t k b := completes_next h (writesFlag_setCC s k b)
  exact ⟨fun hc => hb.mpr hc ▸ hflag, fun hc => Bool.eq_false_iff.mpr (mt hb.mp hc) ▸ hflag⟩

/-- Settles O49: the model's comparisons of two data are the relations of their places. -/
theorem floatComparesWriteOneFlag : Obligations.FloatComparesWriteOneFlag := fun _ _ _ _ =>
  ⟨compares_of_exec rfl (eq_iff_ordered _ _), compares_of_exec rfl (lt_iff_ordered _ _),
    compares_of_exec rfl (le_iff_ordered _ _), compares_of_exec rfl (eq_iff_ordered _ _),
    compares_of_exec rfl (lt_iff_ordered _ _), compares_of_exec rfl (le_iff_ordered _ _)⟩

end Sys2Proof.Machine

/-! PROOFS. The statements of the family 46_bitcount.md: the two leading counts (R265, R266), by the length of the run of
equal bits from the top of a Word. -/

namespace Sys2Proof.Machine

section
variable (v : Word) (b : Bool)

theorem leadingRun_succ_of_eq {n : Nat} (h : v.getLsbD n = b) : leadingRun v b (n + 1) = leadingRun v b n + 1 := if_pos h

theorem leadingRun_succ_of_ne {n : Nat} (h : v.getLsbD n ≠ b) : leadingRun v b (n + 1) = 0 := if_neg h

theorem leadingRun_le (n : Nat) : leadingRun v b n ≤ n := by
  induction n with
  | zero => exact Nat.le_refl 0
  | succ n ih =>
    by_cases h : v.getLsbD n = b
    · rw [leadingRun_succ_of_eq v b h]; exact Nat.succ_le_succ ih
    · rw [leadingRun_succ_of_ne v b h]; exact Nat.zero_le _

/-- The top bit is in the run when the run is not empty; the rest is the run of the bits below. -/
theorem getLsbD_of_lt_leadingRun {n k : Nat} (hk : k < leadingRun v b n) : v.getLsbD (n - 1 - k) = b := by
  induction n generalizing k with
  | zero => exact absurd hk (Nat.not_lt_zero k)
  | succ n ih =>
    by_cases h : v.getLsbD n = b
    · rw [leadingRun_succ_of_eq v b h] at hk
      cases k with
      | zero => exact h
      | succ k =>
        have hbelow := ih (Nat.lt_of_succ_lt_succ hk)
        rwa [show n + 1 - 1 - (k + 1) = n - 1 - k by omega]
    · rw [leadingRun_succ_of_ne v b h] at hk
      exact absurd hk (Nat.not_lt_zero k)

theorem getLsbD_leadingRun {n : Nat} (hn : leadingRun v b n < n) : v.getLsbD (n - 1 - leadingRun v b n) = !b := by
  induction n with
  | zero => exact absurd hn (Nat.not_lt_zero _)
  | succ n ih =>
    by_cases h : v.getLsbD n = b
    · rw [leadingRun_succ_of_eq v b h] at hn ⊢
      have hbelow := ih (Nat.lt_of_succ_lt_succ hn)
      rwa [show n + 1 - 1 - (leadingRun v b n + 1) = n - 1 - leadingRun v b n by omega]
    · rw [leadingRun_succ_of_ne v b h]
      exact Bool.eq_not.mpr h

end

/-- An instruction that writes the length of the leading run of `b` writes the count of the bits `b` at the top. -/
theorem completes_leadingRun {i : Instr} {s : State} {rd : Reg} (v : Word) (b : Bool)
    (h : exec i s = .next (s.setX rd (W (leadingRun v b 32)))) :
    Completes i s fun t => ∃ n ≤ 32, WritesX s t rd (BitVec.ofNat 32 n)
      ∧ (∀ k < n, v.getLsbD (31 - k) = b) ∧ (n < 32 → v.getLsbD (31 - n) = !b) := by
  have hwrites : WritesX s (s.setX rd (W (leadingRun v b 32))) rd (BitVec.ofNat 32 (leadingRun v b 32)) :=
    BitVec.ofInt_natCast 32 (leadingRun v b 32) ▸ writesX_setX s rd _
  exact completes_next h ⟨leadingRun v b 32, leadingRun_le v b 32, hwrites, fun _ => getLsbD_of_lt_leadingRun v b,
    getLsbD_leadingRun v b⟩

/-- Settles O33: the model's count is the leading run of `false` for `clz` and of `true` for `clo`. -/
theorem leadingBitCounts : Obligations.LeadingBitCounts := fun _ _ _ =>
  ⟨completes_leadingRun _ false rfl, completes_leadingRun _ true rfl⟩

end Sys2Proof.Machine

/-! PROOFS. The statements of the families 47_syscall.md and 60_exceptions.md: each service by its number and the one
answer its inputs select, the text of a number, and what a state that has faulted can be. -/

namespace Sys2Proof.Machine

/-! ### The service of a number (R270, R271, R291) -/

theorem exec_service (n : Service) {s : State} {z : Int} (hz : (s.getX 2).toInt = z) (hn : serviceOf z = some n) :
    exec .syscall s = s.service n :=
  exec_syscall_of_service (hz ▸ hn)

theorem serviceOf_eq_none {z : Int} (h : z ∉ serviceNumbers.map Prod.fst) : serviceOf z = none :=
  List.lookup_eq_none_iff.mpr fun _ hp => bne_iff_ne.mpr (ne_of_mem_of_not_mem (List.mem_map_of_mem hp) h).symm

theorem exec_syscall_unknown {s : State} (h : serviceOf (s.getX 2).toInt = none) :
    exec .syscall s = .next (s.takeFault ⟨.invalidArgument, none⟩) := by
  simp only [exec, execSyscall, v0, h]

/-- Settles O51: the table of services has no row for the number. -/
theorem unknownServicesRaiseInvalidArgument : Obligations.UnknownServicesRaiseInvalidArgument := fun s h =>
  completes_next (exec_syscall_unknown (serviceOf_eq_none h)) (raises_takeFault s .invalidArgument none)

/-! ### The text of a number (R273, R287) -/

theorem digitsValue_singleton (acc : Nat) (b : Byte) : digitsValue acc [b] = 10 * acc + (b.toNat - 0x30) := rfl

theorem digitsValue_concat (b : Byte) (ds : List Byte) : ∀ acc,
    digitsValue acc (ds ++ [b]) = 10 * digitsValue acc ds + (b.toNat - 0x30) := by
  induction ds with
  | nil => intro acc; rfl
  | cons c ds ih => intro acc; exact ih _

theorem toNat_digit {n : Nat} (h : n < 10) : (BitVec.ofNat 8 (0x30 + n)).toNat = 0x30 + n := by
  rw [BitVec.toNat_ofNat]
  omega

theorem decimalDigits_ne_nil {k n : Nat} (h : n < k) : decimalDigits k n ≠ [] := by
  cases k with
  | zero => omega
  | succ k =>
    rw [decimalDigits]
    split <;> simp

theorem isDigit_decimalDigits (k : Nat) : ∀ n, ∀ b ∈ decimalDigits k n, 0x30 ≤ b.toNat ∧ b.toNat ≤ 0x39 := by
  induction k with
  | zero => intro n b hb; cases hb
  | succ k ih =>
    intro n b hb
    rw [decimalDigits] at hb
    split at hb
    · rw [List.mem_singleton.mp hb, toNat_digit (by omega)]
      omega
    · rcases List.mem_append.mp hb with hb | hb
      · exact ih _ b hb
      · rw [List.mem_singleton.mp hb, toNat_digit (by omega)]
        omega

theorem digitsValue_decimalDigits (k : Nat) : ∀ n, n < k → digitsValue 0 (decimalDigits k n) = n := by
  induction k with
  | zero => intro n h; omega
  | succ k ih =>
    intro n h
    rw [decimalDigits]
    split
    · rw [digitsValue_singleton, toNat_digit (by omega)]
      omega
    · rw [digitsValue_concat, ih _ (by omega), toNat_digit (by omega)]
      omega

/-- Only the numeral of zero begins with the digit zero. -/
theorem eq_zero_of_head?_decimalDigits (k : Nat) : ∀ n, n < k → (decimalDigits k n).head? = some 0x30 → n = 0 := by
  induction k with
  | zero => intro n h; omega
  | succ k ih =>
    intro n h hhead
    rw [decimalDigits] at hhead
    split at hhead
    · have := congrArg BitVec.toNat (Option.some_inj.mp hhead)
      rw [toNat_digit (by omega)] at this
      exact Nat.add_left_cancel this
    · rw [List.head?_append_of_ne_nil _ (decimalDigits_ne_nil (by omega))] at hhead
      have := ih _ (by omega) hhead
      omega

section
variable (n : Nat)

theorem decimalNat_ne_nil : decimalNat n ≠ [] := decimalDigits_ne_nil (Nat.lt_succ_self n)

theorem isDigit_decimalNat : ∀ b ∈ decimalNat n, 0x30 ≤ b.toNat ∧ b.toNat ≤ 0x39 := isDigit_decimalDigits _ n

theorem foldl_decimalNat :
    (decimalNat n).foldl (fun acc b => 10 * acc + ((b.toNat : Int) - 0x30)) 0 = n := by
  have := digitsValue_eq _ (isDigit_decimalNat n) 0
  rw [decimalNat, digitsValue_decimalDigits _ n (Nat.lt_succ_self n)] at this
  exact this.symm

theorem head?_decimalNat_eq_zero (h : (decimalNat n).head? = some 0x30) : n = 0 :=
  eq_zero_of_head?_decimalDigits _ n (Nat.lt_succ_self n) h

theorem head?_decimalNat_ne_minus : (decimalNat n).head? ≠ some 0x2D := fun h => by
  have := (isDigit_decimalNat n _ (List.mem_of_head? h)).1
  exact absurd this (by decide)

theorem isDecimal_decimalNat : IsDecimal (decimalNat n) n := by
  refine ⟨⟨false, decimalNat n, decimalNat_ne_nil n, isDigit_decimalNat n, rfl, ?_⟩, ?_, fun h => ?_, fun h => ?_⟩
  · rw [foldl_decimalNat]
    simp
  · exact iff_of_false (head?_decimalNat_ne_minus n) (by omega)
  · rw [head?_decimalNat_eq_zero n h]
    rfl
  · exact head?_decimalNat_ne_minus n (by simpa [List.head?_take] using congrArg List.head? h)

end

theorem isDecimal_decimal (z : Int) : IsDecimal (decimal z) z := by
  by_cases hz : z < 0
  · rw [decimal, if_pos hz]
    refine ⟨⟨true, _, decimalNat_ne_nil z.natAbs, isDigit_decimalNat z.natAbs, rfl, ?_⟩, ?_, fun h => ?_, fun h => ?_⟩
    · rw [foldl_decimalNat]
      simp only [if_true]
      omega
    · exact iff_of_true rfl hz
    · cases h
    · have htake : (decimalNat z.natAbs).take 1 = [0x30] := (List.cons_inj_right _).mp h
      have := head?_decimalNat_eq_zero _ (by simpa [List.head?_take] using congrArg List.head? htake)
      omega
  · rw [decimal, if_neg hz]
    have := isDecimal_decimalNat z.natAbs
    rwa [Int.natAbs_of_nonneg (by omega)] at this

theorem IsDecimal.ne_nil {t : List Byte} {z : Int} (h : IsDecimal t z) : t ≠ [] := by
  obtain ⟨⟨neg, ds, hne, -, rfl, -⟩, -⟩ := h
  simp [hne]

theorem length_binaryDigits (v : Word) (n : Nat) : (binaryDigits v n).length = n := by
  induction n with
  | zero => rfl
  | succ n ih => rw [binaryDigits, List.length_cons, ih]

theorem getElem?_binaryDigits (v : Word) (n : Nat) : ∀ k < n,
    (binaryDigits v n)[k]? = some (if v.getLsbD (n - 1 - k) then 0x31 else 0x30) := by
  induction n with
  | zero => intro k hk; omega
  | succ n ih =>
    intro k hk
    cases k with
    | zero => rfl
    | succ k =>
      rw [binaryDigits, List.getElem?_cons_succ, ih k (by omega)]
      congr 4
      omega

/-! ### Output (R273 to R276, R282, R286 to R288) -/

theorem textEvents_of_ne_nil {t : List Byte} (h : t ≠ []) : textEvents t = [.bytes t] := if_neg h

theorem outputs_write_bytes (s : State) {t : List Byte} (h : t ≠ []) : Outputs s (s.write t) [.bytes t] :=
  textEvents_of_ne_nil h ▸ outputs_write s t

/-- Settles O52: the texts of services 1, 36 and 35 by what the model's digits are, the values of services 2, 3 and 34
as they stand in their event. -/
theorem printServicesOnlyWriteTheirValue : Obligations.PrintServicesOnlyWriteTheirValue := by
  intro s
  refine ⟨fun h => completes_next (exec_service .printInt h rfl) ?int,
    fun h => completes_next (exec_service .printUint h rfl) ?uint,
    fun h => completes_next (exec_service .printBin h rfl) ?bin,
    fun h => completes_next (exec_service .printFloat h rfl) (outputs_emit s _),
    fun h => completes_next (exec_service .printDouble h rfl) (outputs_emit s _),
    fun h => completes_next (exec_service .printHex h rfl) (outputs_emit s _)⟩
  case int =>
    have hdecimal := isDecimal_decimal (s.getX 4).toInt
    exact ⟨_, hdecimal, outputs_write_bytes s hdecimal.ne_nil⟩
  case uint =>
    have hdecimal := isDecimal_decimalNat (s.getX 4).toNat
    exact ⟨_, hdecimal, outputs_write_bytes s hdecimal.ne_nil⟩
  case bin =>
    exact ⟨_, length_binaryDigits _ 32, outputs_write_bytes s (List.cons_ne_nil _ _), getElem?_binaryDigits _ 32⟩

theorem allowedChar_iff (v : Word) :
    allowedChar v = true ↔ v = 0 ∨ v = 9 ∨ v = 10 ∨ 0x20 ≤ v.toNat ∧ v.toNat ≤ 0x7E := by
  simp [allowedChar, or_assoc]

theorem servicePrintChar_allowed {s : State} (h : allowedChar (s.getX 4) = true) :
    servicePrintChar s = .next (s.write [BitVec.ofNat 8 (s.getX 4).toNat]) := by
  rw [BitVec.ofNat_toNat]
  exact if_pos h

theorem servicePrintChar_refused {s : State} (h : ¬ allowedChar (s.getX 4) = true) :
    servicePrintChar s = .next (s.takeFault ⟨.invalidCharacter, none⟩) := if_neg h

theorem servicePrintString_done {s : State} {t : List Byte} (h : s.stringAt allowedByte (s.getX 4) = .done t) :
    servicePrintString s = .next (s.write t) := by
  simp only [servicePrintString, a0, h, State.withString]

theorem servicePrintString_raised {s : State} {r : Raise} (h : s.stringAt allowedByte (s.getX 4) = .raised r) :
    servicePrintString s = .next (s.takeFault r) := by
  simp only [servicePrintString, a0, h, State.withString]

/-- Service 4 raises what the read of its string raises. -/
theorem printString_raises {s : State} {k : FaultKind} {b : Option Word} (h4 : (s.getX 2).toInt = 4)
    (h : s.stringAt allowedByte (s.getX 4) = .raised ⟨k, b⟩) : Completes .syscall s fun t => Raises s t k b :=
  completes_next ((exec_service .printString h4 rfl).trans (servicePrintString_raised h)) (raises_takeFault s k b)

/-- Settles O53: service 11 by the allowed set of Words, service 4 by the three ways a read of allowed bytes can end. -/
theorem printCharAndPrintStringValidateFirst : Obligations.PrintCharAndPrintStringValidateFirst := by
  intro s
  refine ⟨fun h11 => ?char, fun h4 text hallowed => ?string⟩
  case char =>
    have hexec := exec_service .printChar h11 rfl
    rw [← allowedChar_iff]
    exact ⟨fun h => completes_next (hexec.trans (servicePrintChar_allowed h))
        (outputs_write_bytes s (List.cons_ne_nil _ _)),
      fun h => completes_next (hexec.trans (servicePrintChar_refused h)) (raises_takeFault s .invalidCharacter none)⟩
  case string =>
    have hok : ∀ b ∈ text, allowedByte b = true := fun b hb => (allowedByte_iff b).mpr (hallowed b hb)
    refine ⟨fun hstring => ?_, fun b hbytes hb => ?_, fun hbytes hout => ?_⟩
    · have hdone := servicePrintString_done (stringAt_done hstring hok)
      exact completes_next ((exec_service .printString h4 rfl).trans hdone) (outputs_write s text)
    · exact printString_raises h4 (stringAt_invalid hbytes hok ((allowedByte_eq_false_iff b).mpr hb))
    · exact printString_raises h4 (stringAt_out hbytes hok hout)

/-! ### A line into memory (R280) -/

theorem firstUnwritable_eq_none {s : State} {n : Nat} : ∀ {a : Word},
    (∀ k < n, s.writeAdmitted (a + BitVec.ofNat 32 k).toNat 1 = true) → s.firstUnwritable n a = none := by
  induction n with
  | zero => intro a _; rfl
  | succ n ih =>
    intro a h
    have hfirst : s.writeAdmitted a.toNat 1 = true := by simpa using h 0 (Nat.succ_pos n)
    rw [State.firstUnwritable, if_pos hfirst]
    exact ih fun k hk => add_ofNat_succ a k ▸ h (k + 1) (Nat.succ_lt_succ hk)

theorem exists_firstUnwritable {s : State} {n : Nat} {a : Word}
    (h : ∃ k < n, s.writeAdmitted (a + BitVec.ofNat 32 k).toNat 1 = false) : ∃ b, s.firstUnwritable n a = some b := by
  obtain ⟨k, hk, hfalse⟩ := h
  refine Option.ne_none_iff_exists'.mp fun hnone => ?_
  exact Bool.false_ne_true (hfalse.symm.trans (writeAdmitted_of_firstUnwritable hnone k hk))

theorem toNat_ne_toNat_add_ofNat (a : Word) {k : Nat} (h0 : 0 < k) (hk : k < 2 ^ 32) :
    a.toNat ≠ (a + BitVec.ofNat 32 k).toNat := by
  have := a.isLt
  rw [BitVec.toNat_add, BitVec.toNat_ofNat]
  omega

/-- A string store at no more than all addresses leaves each byte where it belongs. -/
theorem byteAt_putEach (bs : List Byte) : ∀ {s : State} {a : Word}, bs.length ≤ 2 ^ 32 →
    (∀ k < bs.length, s.writeAdmitted (a + BitVec.ofNat 32 k).toNat 1 = true) →
    ∀ k (h : k < bs.length), (s.putEach a bs).byteAt (a + BitVec.ofNat 32 k).toNat = bs[k] := by
  induction bs with
  | nil => intro s a _ _ k h; cases h
  | cons b bs ih =>
    intro s a hlen hw k hk
    rw [List.length_cons] at hlen hw hk
    rw [State.putEach]
    cases k with
    | zero =>
      have hfirst : s.writeAdmitted a.toNat [b].length = true := by simpa using hw 0 hk
      rw [BitVec.add_zero, byteAt_putEach_other, byteAt_putBytes hfirst]
      · simp
      · intro j hj
        rw [← add_ofNat_succ]
        exact toNat_ne_toNat_add_ofNat a (Nat.succ_pos j) (by omega)
    | succ k =>
      rw [add_ofNat_succ]
      refine ih (by omega) (fun j hj => ?_) k (by omega)
      rw [State.putBytes_writeAdmitted, ← add_ofNat_succ]
      exact hw (j + 1) (by omega)

theorem onlyChanges_putEach (s : State) (a : Word) (bs : List Byte) : OnlyChanges [.memory] s (s.putEach a bs) := by
  intro p hp; cases p <;> simp_all [Part.same]

section
variable {s : State} {l : List Byte} {ls : List (List Byte)}

theorem serviceReadString_noRoom (h : (s.getX 5).toInt < 1) : serviceReadString s = .next s := if_pos h

theorem serviceReadString_noLine (h : 1 ≤ (s.getX 5).toInt) (hin : s.input = []) :
    serviceReadString s = .fault .awaitingInput := by
  rw [serviceReadString, if_neg (Int.not_lt.mpr h), State.readLine, hin]

theorem serviceReadString_stores (h : 1 ≤ (s.getX 5).toInt) (hin : s.input = l :: ls)
    (hw : (s.setInput ls).firstUnwritable (storedLine (s.getX 5).toInt l).length (s.getX 4) = none) :
    serviceReadString s = .next ((s.setInput ls).putEach (s.getX 4) (storedLine (s.getX 5).toInt l)) := by
  rw [serviceReadString, if_neg (Int.not_lt.mpr h), State.readLine, hin]
  simp only [a0, a1, hw]

theorem serviceReadString_raises {bad : Word} (h : 1 ≤ (s.getX 5).toInt) (hin : s.input = l :: ls)
    (hw : (s.setInput ls).firstUnwritable (storedLine (s.getX 5).toInt l).length (s.getX 4) = some bad) :
    serviceReadString s = .next ((s.setInput ls).takeFault ⟨.memoryOutOfBounds, some bad⟩) := by
  rw [serviceReadString, if_neg (Int.not_lt.mpr h), State.readLine, hin]
  simp only [a0, a1, hw]

end

section
variable {m : Int} {l : List Byte} {i : Nat}

theorem getElem_storedLine (hl : i < l.length) (hm : i < (m - 1).toNat) (h : i < (storedLine m l).length) :
    (storedLine m l)[i] = l[i] := by
  simp only [storedLine]
  rw [List.getElem_append_left (by rw [List.length_take]; omega), List.getElem_take]

theorem getElem_storedLine_last (hi : i = min l.length (m - 1).toNat) (h : i < (storedLine m l).length) :
    (storedLine m l)[i] = 0 := by
  simp only [storedLine]
  exact List.getElem_concat_length (by rw [List.length_take]; omega) _

end

/-- Settles O55: the `k + 1` addresses are pairwise distinct, as `k` is less than 2^31, so each byte stands where it was
stored. -/
theorem readStringStoresTheLineAndATerminator : Obligations.ReadStringStoresTheLineAndATerminator := by
  intro s h8
  have hexec := exec_service .readString h8 rfl
  refine ⟨fun h => completes_next (hexec.trans (serviceReadString_noRoom h)) (unchanged_self s),
    fun h hin => hexec.trans (serviceReadString_noLine h hin), fun h l rest k hin hk => ?line⟩
  have hlength : (storedLine (s.getX 5).toInt l).length = k + 1 := by rw [length_storedLine, ← hk]
  have hspace : k + 1 ≤ 2 ^ 32 := by
    have := (s.getX 5).toInt_lt
    omega
  have hinput := onlyChanges_setInput s rest
  refine ⟨fun hw => ?stores, fun ⟨i, hi, hfalse⟩ => ?raises⟩
  case stores =>
    have hw' : ∀ i < (storedLine (s.getX 5).toInt l).length,
        (s.setInput rest).writeAdmitted (s.getX 4 + BitVec.ofNat 32 i).toNat 1 = true :=
      fun i hi => (State.setInput_writeAdmitted ..).trans (hw i (by omega))
    have hbyte := byteAt_putEach _ (hlength ▸ hspace) hw'
    refine completes_next (hexec.trans (serviceReadString_stores h hin (firstUnwritable_eq_none hw')))
      ⟨by simp, fun i hl hik => ?_, ?_, fun a ha => ?_, (hinput.trans (onlyChanges_putEach _ _ _)).mono (by simp)⟩
    · rw [hbyte i (by omega), getElem_storedLine hl (by omega)]
    · rw [hbyte k (by omega), getElem_storedLine_last hk]
    · rw [byteAt_putEach_other _ _ _ _ fun i hi => ha i (by omega), State.setInput_byteAt]
  case raises =>
    have hout : ∃ i < (storedLine (s.getX 5).toInt l).length,
        (s.setInput rest).writeAdmitted (s.getX 4 + BitVec.ofNat 32 i).toNat 1 = false :=
      ⟨i, by omega, (State.setInput_writeAdmitted ..).trans hfalse⟩
    obtain ⟨bad, hbad⟩ := exists_firstUnwritable hout
    obtain ⟨hrun, hfault, hexit, honly⟩ := raises_takeFault (s.setInput rest) .memoryOutOfBounds (some bad)
    exact completes_next (hexec.trans (serviceReadString_raises h hin hbad))
      ⟨rfl, hrun, ⟨bad, hfault⟩, hexit, (hinput.trans honly).mono (by simp)⟩

/-! ### Termination (R281, 60_exceptions.md R319) -/

theorem countText_eq_asciiBytes : countText = asciiBytes "\nInstruction count: " := by decide

theorem printedCount_cast {s : State} (h : 1 ≤ s.icount) :
    (s.printedCount : Int) = if s.cfg.icountIncludesExit then (s.icount : Int) else (s.icount : Int) - 1 := by
  unfold State.printedCount
  split <;> omega

theorem writeCount_shown {s : State} (h : s.cfg.showIcount = true) :
    s.writeCount = s.write (countText ++ decimalNat s.printedCount) := if_pos h

theorem writeCount_hidden {s : State} (h : s.cfg.showIcount = false) : s.writeCount = s := by
  rw [State.writeCount, h]
  rfl

theorem onlyChanges_halt (s : State) (code : Int) : OnlyChanges [.run] s (s.halt code) := by
  intro p hp; cases p <;> simp_all [Part.same]

theorem onlyChanges_writeCount (s : State) : OnlyChanges [.out] s s.writeCount := by
  cases h : s.cfg.showIcount with
  | true => exact writeCount_shown h ▸ (outputs_write s _).2
  | false => exact (writeCount_hidden h).symm ▸ (unchanged_self s).mono (by simp)

theorem exec_exit {s : State} (h : (s.getX 2).toInt = 10 ∨ (s.getX 2).toInt = 17) : exec .syscall s
    = .next (s.writeCount.halt (if (s.getX 2).toInt = 10 then 0 else (s.getX 4).toInt)) := by
  rcases h with h | h
  · rw [exec_service .exit h rfl, if_pos h]
    rfl
  · rw [exec_service .exit2 h rfl, if_neg (by omega)]
    rfl

/-- Settles O57: services 10 and 17 write the count, if it is shown, and halt. -/
theorem exitServicesHaltTheRun : Obligations.ExitServicesHaltTheRun := by
  intro s h hcount hfault
  have hwrite := onlyChanges_writeCount s
  refine completes_next (exec_exit h) ⟨rfl, ?fault, rfl, fun hshow => ?shown, fun hshow => ?hidden,
    (hwrite.trans (onlyChanges_halt _ _)).mono (by simp)⟩
  case fault =>
    obtain ⟨-, hsame, -⟩ := hwrite .run (by decide)
    exact hsame.trans hfault
  case shown =>
    refine ⟨_, printedCount_cast hcount ▸ isDecimal_decimalNat s.printedCount, ?_⟩
    rw [State.halt_out, writeCount_shown hshow, State.write_out, countText_eq_asciiBytes,
      textEvents_of_ne_nil (by simp [decimalNat_ne_nil])]
  case hidden => rw [State.halt_out, writeCount_hidden hshow]

/-! ### Dumps (R283 to R285) -/

theorem readEach_ok {s : State} {n : Nat} : ∀ {a : Word},
    (∀ k < n, s.readAdmitted (a + BitVec.ofNat 32 k).toNat 1 = true) →
    s.readEach n a = .ok ((List.range n).map fun k => s.byteAt (a + BitVec.ofNat 32 k).toNat) := by
  induction n with
  | zero => intro a _; rfl
  | succ n ih =>
    intro a h
    have hfirst : s.readAdmitted a.toNat 1 = true := by simpa using h 0 (Nat.succ_pos n)
    have hrest := ih fun k hk => add_ofNat_succ a k ▸ h (k + 1) (Nat.succ_lt_succ hk)
    rw [State.readEach, memRead_one, if_pos hfirst]
    simp only [hrest, BitVec.ofNat_toNat, BitVec.setWidth_eq, List.range_succ_eq_map, List.map_cons, List.map_map,
      BitVec.add_zero, Function.comp_def, Nat.succ_eq_add_one, add_ofNat_succ]

theorem readEach_out {s : State} {n : Nat} : ∀ {a : Word},
    (∃ k < n, s.readAdmitted (a + BitVec.ofNat 32 k).toNat 1 = false) →
    ∃ b, s.readEach n a = .error ⟨.memoryOutOfBounds, some b⟩ := by
  induction n with
  | zero => rintro a ⟨k, hk, _⟩; cases hk
  | succ n ih =>
    rintro a ⟨k, hk, hfalse⟩
    by_cases hfirst : s.readAdmitted a.toNat 1 = true
    · cases k with
      | zero => simp [hfirst] at hfalse
      | succ k =>
        obtain ⟨b, hb⟩ := ih ⟨k, Nat.lt_of_succ_lt_succ hk, add_ofNat_succ a k ▸ hfalse⟩
        refine ⟨b, ?_⟩
        rw [State.readEach, memRead_one, if_pos hfirst]
        simp only [hb]
    · refine ⟨a, ?_⟩
      rw [State.readEach, memRead_one, if_neg hfirst]

theorem serviceMemoryDump_ok {s : State} {bs : List Byte} (h : s.readEach (s.getX 5).toNat (s.getX 4) = .ok bs) :
    serviceMemoryDump s = .next (s.emit (.memDump (s.getX 4) bs)) := by
  rw [serviceMemoryDump, h, complete_ok]

theorem serviceMemoryDump_raises {s : State} {r : Raise} (h : s.readEach (s.getX 5).toNat (s.getX 4) = .error r) :
    serviceMemoryDump s = .next (s.takeFault r) := by
  rw [serviceMemoryDump, h, complete_error]

/-- A dump shows `x[0]` as zero. -/
theorem getElem_snapshot_x (s : State) (r : Reg) : s.snapshot.x[r] = s.getX r := by
  by_cases h : r = 0
  · subst h
    exact Vector.getElem_set_self _
  · have hne : 0 ≠ r.val := fun e => h (Fin.ext e.symm)
    rw [State.getX, if_neg h]
    exact Vector.getElem_set_ne (by decide) _ hne

/-- Settles O58: each byte of a memory dump is read by itself; the two other dumps read no memory. -/
theorem dumpServicesRecordWhatTheyShow : Obligations.DumpServicesRecordWhatTheyShow := by
  intro s
  refine ⟨fun h30 => ⟨fun hread => ?bytes, fun hout => ?raises⟩, fun h31 => ?registers, fun h32 => ?files⟩
  case bytes =>
    refine completes_next ((exec_service .memoryDump h30 rfl).trans (serviceMemoryDump_ok (readEach_ok hread)))
      ⟨_, outputs_emit s _, by simp, fun k hk => ?_⟩
    rw [List.getElem_map, List.getElem_range]
  case raises =>
    obtain ⟨b, hb⟩ := readEach_out hout
    exact completes_next ((exec_service .memoryDump h30 rfl).trans (serviceMemoryDump_raises hb))
      ⟨b, raises_takeFault s .memoryOutOfBounds (some b)⟩
  case registers =>
    exact completes_next (exec_service .registerDump h31 rfl)
      ⟨_, outputs_emit s _, getElem_snapshot_x s, fun _ => rfl, rfl, rfl, rfl, fun _ => rfl⟩
  case files => exact completes_next (exec_service .dumpFiles h32 rfl) (outputs_emit s _)

/-! ### Random numbers (R289, R290, R292) -/

theorem randDest_reg (d : RandDest) : RandDest.reg d = if d = .v0 then 2 else 4 := by cases d <;> rfl

theorem getX_setX_randDest (s : State) (d : RandDest) (v : Word) (q : Reg) :
    (s.setX (RandDest.reg d) v).getX q = if q = (if d = .v0 then 2 else 4) then v else s.getX q := by
  have hne : RandDest.reg d ≠ 0 := by cases d <;> decide
  rw [State.getX_setX, ← randDest_reg]
  exact if_ctx_congr (and_iff_left_of_imp fun h => h ▸ hne) (fun _ => rfl) fun _ => rfl

theorem getX_setX_randDest_same (s : State) (d : RandDest) (v : Word) :
    (s.setX (RandDest.reg d) v).getX (RandDest.reg d) = v := by
  rw [getX_setX_randDest, randDest_reg, if_pos rfl]

theorem onlyChanges_setGen (s : State) (g : Nat) : OnlyChanges [.gen] s (s.setGen g) := by
  intro p hp; cases p <;> simp_all [Part.same]

/-- What services 41 and 42 do with a draw and the next generator state. -/
theorem draws_setGen_setX {s t : State} {g : Nat} {v : Word}
    (ht : t = (s.setGen g).setX (RandDest.reg s.cfg.randDest) v) :
    (∀ q, t.getX q = if q = (if s.cfg.randDest = .v0 then 2 else 4) then v else s.getX q)
      ∧ t.gen = g ∧ OnlyChanges [.x, .gen] s t := by
  subst ht
  refine ⟨fun q => ?_, by simp, ((onlyChanges_setGen s g).trans (writesX_setX _ _ v).2).mono (by simp)⟩
  rw [getX_setX_randDest, State.setGen_getX]

theorem rangeG_le (g b : Nat) : (rangeG g b).1 ≤ b := Nat.le_of_lt_succ (Nat.mod_lt _ (Nat.succ_pos b))

theorem serviceRandIntRange_negative {s : State} (h : (s.getX 5).toInt < 0) :
    serviceRandIntRange s = .next (s.takeFault ⟨.invalidArgument, none⟩) := if_pos h

theorem serviceRandIntRange_draws {s : State} (h : 0 ≤ (s.getX 5).toInt) : serviceRandIntRange s
    = .next ((s.setGen (rangeG s.gen (s.getX 5).toNat).2).setX (RandDest.reg s.cfg.randDest)
      (W (rangeG s.gen (s.getX 5).toNat).1)) := if_neg (Int.not_lt.mpr h)

/-- The draw of a service 41 that is asked for next is a function of the generator state. -/
theorem draw_eq_nextG {t u : State} (h : exec .syscall (t.setX 2 41) = .next u) :
    u.getX (RandDest.reg u.cfg.randDest) = (Config.nextG t.gen).1 := by
  have h41 : ((t.setX 2 41).getX 2).toInt = 41 := by rw [getX_setX_v0]; rfl
  cases h.symm.trans (exec_service .randInt h41 rfl)
  simp [getX_setX_randDest_same]

theorem gen_of_seed {s t : State} (h40 : (s.getX 2).toInt = 40) (h : exec .syscall s = .next t) :
    t.gen = Config.seedG (s.getX 4) := by
  cases h.symm.trans (exec_service .seed h40 rfl)
  rfl

/-- Settles O59: service 40 sets the generator, 41 and 42 write a draw and the next generator state, and a draw after
equal seeds is the same. -/
theorem randomServicesUseOnlyTheGenerator : Obligations.RandomServicesUseOnlyTheGenerator := by
  refine ⟨fun s h40 => ?seed, fun s h41 => ?int, fun s h42 => ⟨fun hneg => ?negative, fun hpos => ?range⟩,
    fun s s' t t' u u' h40 h40' harg ht ht' _ hu hu' => ?equalSeeds⟩
  case seed => exact completes_next (exec_service .seed h40 rfl) ⟨rfl, onlyChanges_setGen s _⟩
  case int => exact completes_next (exec_service .randInt h41 rfl) (draws_setGen_setX rfl)
  case negative =>
    exact completes_next ((exec_service .randIntRange h42 rfl).trans (serviceRandIntRange_negative hneg))
      (raises_takeFault s .invalidArgument none)
  case range =>
    refine completes_next ((exec_service .randIntRange h42 rfl).trans (serviceRandIntRange_draws hpos))
      ⟨?_, draws_setGen_setX rfl⟩
    rw [BitVec.toInt_eq_toNat_of_lt (BitVec.toInt_pos_iff.mp hpos)]
    exact Int.ofNat_le.mpr (rangeG_le _ _)
  case equalSeeds =>
    rw [draw_eq_nextG hu, draw_eq_nextG hu', gen_of_seed h40 ht, gen_of_seed h40' ht', harg]

/-! ### Faults (60_exceptions.md R300, R311, R315) -/

/-- A service that faults has changed nothing before, or consumed one line. -/
theorem ServiceEffect.of_faulted {s t : State} (e : ServiceEffect s t) (hs : s.run ≠ .faulted) (ht : t.run = .faulted) :
    ∃ r, t = s.takeFault r ∨ ∃ l ls, s.input = l :: ls ∧ t = (s.setInput ls).takeFault r := by
  cases e with
  | raises r => exact ⟨r, .inl rfl⟩
  | rejects l ls r hl => exact ⟨r, .inr ⟨l, ls, hl, rfl⟩⟩
  | exits es code => cases ht
  | _ => exact absurd (by simpa using ht) hs

theorem Effect.of_faulted {i : Instr} {s t : State} (e : Effect i s t) (hs : s.run ≠ .faulted) (ht : t.run = .faulted) :
    ∃ r, t = s.takeFault r ∨ i = .syscall ∧ ∃ l ls, s.input = l :: ls ∧ t = (s.setInput ls).takeFault r := by
  cases e with
  | raises r => exact ⟨r, .inl rfl⟩
  | service _ hi he =>
    obtain ⟨r, hr⟩ := he.of_faulted hs ht
    exact ⟨r, hr.imp_right fun h => ⟨hi, h⟩⟩
  | _ => exact absurd (by simpa using ht) hs

/-- Settles O12: a fault is the only change of the state before it, but for the line a service has consumed. -/
theorem faultsArePrecise : Obligations.FaultsArePrecise := by
  intro i s t h hs ht
  obtain ⟨⟨k, b⟩, rfl | ⟨hi, l, ls, hl, rfl⟩⟩ := (exec_effect h).of_faulted hs ht
  · obtain ⟨-, hfault, hexit, honly⟩ := raises_takeFault s k b
    exact ⟨⟨k, b, hfault⟩, hexit, honly.mono (by simp), .inl rfl⟩
  · obtain ⟨-, hfault, hexit, honly⟩ := raises_takeFault (s.setInput ls) k b
    exact ⟨⟨k, b, hfault⟩, hexit, ((onlyChanges_setInput s ls).trans honly).mono (by simp), .inr ⟨hi, l, hl⟩⟩

end Sys2Proof.Machine
